-- ==== Sys2Proof/Word.lean ====
section
/-! DEFINITION. The word types of the machine. -/

namespace Sys2Proof

/-- A byte of memory (`20_memory.md` R80). -/
abbrev Byte := BitVec 8

/-- A 32-bit quantity: an instruction word (R100) or a CSR whose width is fixed at 32 bits (R14, R15). -/
abbrev Word32 := BitVec 32

/-- The container of a GRLEN-bit quantity (a general register, the pc, a GR-wide CSR). Under LA64 all 64 bits are
used; under LA32 the value stands in bits 31:0 and bits 63:32 are 0 (assumption log 6). -/
abbrev Word := BitVec 64

end Sys2Proof
end

