-- ==== Sys2Proof/Config.lean ====
section
/-! DEFINITION. What an implementation fixes (the parameters of `00_scope.md` R6), as plain data, and the free values:
constants with no body, so that nothing about them can be evaluated or proved. -/

namespace Sys2Proof

/-- The architecture variant, which sets GRLEN (`00_scope.md` R6, decision D1). -/
inductive Arch where
  | la32
  | la64
  deriving DecidableEq, Repr

/-- PLV_SET: the privilege levels the core implements (R6, decision D32). -/
inductive PlvSet where
  /-- the core has PLV0, PLV1, PLV2 and PLV3 -/
  | allFour
  /-- the core has PLV0 and PLV3 only -/
  | zeroAndThree
  deriving DecidableEq, Repr

/-- CSR_OPAQUE_POLICY: what an access to a CSR with unknown fields does (R6, `10_state.md` R67, decision D7). -/
inductive OpaquePolicy where
  /-- the access is refused: R6's default -/
  | refuse
  /-- the register is plain storage of its width class -/
  | plainStorage
  deriving DecidableEq, Repr

/-- The parameters of `00_scope.md` R6. NGR (32) and CSR_IMPLEMENTED (the inventory of R15 with `nsave` SAVE registers)
are fixed by the spec; IRQ_ORACLE is data of the state. -/
structure Config where
  /-- GRLEN: 32 or 64 -/
  arch : Arch
  /-- NSAVE: the number of SAVE registers, 1 to 16 -/
  nsave : Nat
  /-- PLV_SET -/
  plvSet : PlvSet
  /-- EENTRY_ZERO_BITS: how many low bits of EENTRY are hardwired to 0 -/
  eentryZeroBits : Nat
  /-- WATCH_IMPLEMENTED: whether CRMD.WE and the PWE fields are storage -/
  watch : Bool
  /-- CSR_OPAQUE_POLICY -/
  opaquePolicy : OpaquePolicy
  /-- RESET_PC -/
  resetPc : Word
  /-- PALEN: the physical address width, to which direct translation truncates (R88) -/
  palen : Nat
  /-- VALEN: the virtual address width; the spec says that no rule uses it (R6) -/
  valen : Nat
  /-- END_PC: where a run is over (R238), if the harness sets one -/
  endPc : Option Word
  deriving DecidableEq, Repr

/-- GRLEN in bits (R6). -/
def Config.grlen (c : Config) : Nat :=
  match c.arch with
  | .la32 => 32
  | .la64 => 64

/-- The parameters are in the ranges R6 gives them: NSAVE 1 to 16, and RESET_PC an address of GRLEN bits. -/
def Config.wf (c : Config) : Bool :=
  decide (1 ≤ c.nsave) && decide (c.nsave ≤ 16) && decide (c.resetPc.toNat < 2 ^ c.grlen)

/-- The configuration of `State.reset` (assumption log 1): the conventions of `95_test_vectors.md`, R6's defaults, and
plain storage for the CSRs with unknown fields. DESIGN CHOICE. -/
def Config.default : Config where
  arch := .la32
  nsave := 8
  plvSet := .allFour
  eentryZeroBits := 10
  watch := true
  opaquePolicy := .plainStorage
  resetPc := 0x1C000000
  palen := 32
  valen := 32
  endPc := none

/-- FREE VALUE: what the n-th free draw gives as the read value of an undefined CSR (`10_state.md` R63, U1; log 10). -/
opaque Config.undefinedCsr : Nat → Word

/-- FREE VALUE: what BADI holds after an exception on the fetch itself, at the n-th draw (R25, U9, D34; log 25). -/
opaque Config.fetchBadi : Nat → Word32

/-- FREE VALUE: MERRCTL.Repairable as a machine error reports it (`60_exceptions.md` R200, "implementation's report";
log 26). -/
opaque Config.merrRepairable : Nat → BitVec 1

/-- FREE VALUE: MERRCTL.Cause as a machine error reports it (R200; log 26). -/
opaque Config.merrCause : Nat → BitVec 8

/-- FREE VALUE: MERRINFO1 as a machine error reports it (R200; log 26). -/
opaque Config.merrInfo1 : Nat → Word

/-- FREE VALUE: MERRINFO2 as a machine error reports it (R200; log 26). -/
opaque Config.merrInfo2 : Nat → Word

end Sys2Proof
end

