-- ==== Sys2Proof/Syntax.lean ====
section
/-! DEFINITION. The instructions, one constructor per row of `spec/opcode_table.json`, and the names of the instructions
the decoder knows only in order to refuse them. -/

namespace Sys2Proof

/-- A general register number: a 5-bit field of the instruction (`10_state.md` R11, `30_encoding.md` R105). -/
abbrev Reg := BitVec 5

/-- A CSR number: the unsigned 14-bit `csr_num` (R14, R104). -/
abbrev CsrNum := BitVec 14

/-- The six instructions of the spec (`30_encoding.md` R106). -/
inductive Instr where
  /-- CSRRD rd, csr_num (R123) -/
  | csrrd (rd : Reg) (csr : CsrNum)
  /-- CSRWR rd, csr_num (R124) -/
  | csrwr (rd : Reg) (csr : CsrNum)
  /-- CSRXCHG rd, rj, csr_num (R125) -/
  | csrxchg (rd rj : Reg) (csr : CsrNum)
  /-- ERTN (R140) -/
  | ertn
  /-- SYSCALL code (R150) -/
  | syscall (code : BitVec 15)
  /-- BREAK code (R151) -/
  | brk (code : BitVec 15)
  deriving DecidableEq, Repr

/-- The privileged instructions that the spec leaves out and whose remembered encodings it lists so that a decoder can
refuse them by name (`00_scope.md` R5, `93_implementation_defined.md` G30). -/
inductive OutOfScope where
  | cacop | lddir | ldpte
  | iocsrrdB | iocsrrdH | iocsrrdW | iocsrrdD
  | iocsrwrB | iocsrwrH | iocsrwrW | iocsrwrD
  | tlbclr | tlbflush | tlbsrch | tlbrd | tlbwr | tlbfill
  | idle | invtlb | dbcl
  deriving DecidableEq, Repr

end Sys2Proof
end

