-- ==== Sys2Proof/WellFormed.lean ====
section
/-! DEFINITION. Which terms of `Instr` are instructions. The widths of the operands are in their types; one check
remains. -/

namespace Sys2Proof

/-- CSRXCHG's mask register must not be register 0 or 1, since those words are CSRRD and CSRWR (`30_encoding.md` R101,
R106, R110). Every other operand value is legal (R108). -/
def Instr.wellFormed : Instr → Bool
  | .csrrd _ _ => true
  | .csrwr _ _ => true
  | .csrxchg _ rj _ => rj != 0 && rj != 1
  | .ertn => true
  | .syscall _ => true
  | .brk _ => true

end Sys2Proof
end

