-- ==== Sys2Proof/Decode.lean ====
section
/-! DEFINITION. From bits to instructions and back (`30_encoding.md`). -/

namespace Sys2Proof

/-- Why bits are no instruction of this spec. -/
inductive DecodeError where
  /-- fewer than the 4 bytes of an instruction (R100) -/
  | tooShort
  /-- an instruction the spec leaves out and names (`93_implementation_defined.md` G30) -/
  | outOfScope (name : OutOfScope)
  /-- the word matches no row: no meaning in this spec (R107) -/
  | noMeaning (w : Word32)
  deriving DecidableEq, Repr

/-- Field `rd`, bits 4:0 (R101, R105). -/
def fieldRd (w : Word32) : Reg := w.extractLsb' 0 5

/-- Field `rj`, bits 9:5 (R101, R105). -/
def fieldRj (w : Word32) : Reg := w.extractLsb' 5 5

/-- Field `csr_num`, bits 23:10 (R101, R104). -/
def fieldCsr (w : Word32) : CsrNum := w.extractLsb' 10 14

/-- Field `code`, bits 14:0 (R103, R105). -/
def fieldCode (w : Word32) : BitVec 15 := w.extractLsb' 0 15

/-- The remembered encodings of G30: mask, match, name. -/
def outOfScopeRows : List (Word32 × Word32 × OutOfScope) :=
  [ (0xFFC00000, 0x06000000, .cacop),
    (0xFFFC0000, 0x06400000, .lddir),
    (0xFFFC001F, 0x06440000, .ldpte),
    (0xFFFFFC00, 0x06480000, .iocsrrdB),
    (0xFFFFFC00, 0x06480400, .iocsrrdH),
    (0xFFFFFC00, 0x06480800, .iocsrrdW),
    (0xFFFFFC00, 0x06480C00, .iocsrrdD),
    (0xFFFFFC00, 0x06481000, .iocsrwrB),
    (0xFFFFFC00, 0x06481400, .iocsrwrH),
    (0xFFFFFC00, 0x06481800, .iocsrwrW),
    (0xFFFFFC00, 0x06481C00, .iocsrwrD),
    (0xFFFFFFFF, 0x06482000, .tlbclr),
    (0xFFFFFFFF, 0x06482400, .tlbflush),
    (0xFFFFFFFF, 0x06482800, .tlbsrch),
    (0xFFFFFFFF, 0x06482C00, .tlbrd),
    (0xFFFFFFFF, 0x06483000, .tlbwr),
    (0xFFFFFFFF, 0x06483400, .tlbfill),
    (0xFFFF8000, 0x06488000, .idle),
    (0xFFFF8000, 0x06498000, .invtlb),
    (0xFFFF8000, 0x002A8000, .dbcl) ]

/-- The refusal of a word that matches none of the six rows: by name where G30 has one. -/
def refuseWord (w : Word32) : DecodeError :=
  match outOfScopeRows.find? (fun r => w &&& r.1 == r.2.1) with
  | some r => .outOfScope r.2.2
  | none => .noMeaning w

/-- The decoder: the rows of R106 from top to bottom, the first whose `(word & mask) = match` holds. -/
def decode (w : Word32) : Except DecodeError Instr :=
  if w &&& 0xFF0003E0 = 0x04000000 then .ok (.csrrd (fieldRd w) (fieldCsr w))
  else if w &&& 0xFF0003E0 = 0x04000020 then .ok (.csrwr (fieldRd w) (fieldCsr w))
  else if w &&& 0xFF000000 = 0x04000000 then .ok (.csrxchg (fieldRd w) (fieldRj w) (fieldCsr w))
  else if w &&& 0xFFFFFFFF = 0x06483800 then .ok .ertn
  else if w &&& 0xFFFF8000 = 0x002B0000 then .ok (.syscall (fieldCode w))
  else if w &&& 0xFFFF8000 = 0x002A0000 then .ok (.brk (fieldCode w))
  else .error (refuseWord w)

/-- A word from its four bytes, the byte at the lowest address first: little-endian (`20_memory.md` R82). -/
def wordOfBytes (b0 b1 b2 b3 : Byte) : Word32 := b3 ++ b2 ++ b1 ++ b0

/-- The four bytes of a word, the byte at the lowest address first (R82). -/
def bytesOfWord (w : Word32) : List Byte :=
  [w.extractLsb' 0 8, w.extractLsb' 8 8, w.extractLsb' 16 8, w.extractLsb' 24 8]

/-- The decoder on bytes as they stand in memory: total, and the bytes after the first four are left over. -/
def decodeBytes : List Byte → Except DecodeError (Instr × List Byte)
  | b0 :: b1 :: b2 :: b3 :: rest =>
    match decode (wordOfBytes b0 b1 b2 b3) with
    | .ok i => .ok (i, rest)
    | .error e => .error e
  | _ => .error .tooShort

/-- Format CSR (R101): opcode 0x04 in bits 31:24, csr_num, rj, rd. -/
def encodeCsrFormat (csr : CsrNum) (rj rd : Reg) : Word32 := 0x04#8 ++ csr ++ rj ++ rd

/-- The encoder, from the tables of R101 to R103. -/
def encode : Instr → Word32
  | .csrrd rd csr => encodeCsrFormat csr 0 rd
  | .csrwr rd csr => encodeCsrFormat csr 1 rd
  | .csrxchg rd rj csr => encodeCsrFormat csr rj rd
  | .ertn => 0x06483800
  | .syscall code => 0b00000000001010110#17 ++ code
  | .brk code => 0b00000000001010100#17 ++ code

/-- The host's question: what the decoder reads from an instruction whose bits are `w`, of which the table gives
`nbits` (every row has 32). The word is laid out in memory order and given to the decoder. -/
def decodeTableWord (nbits w : Nat) : Option Instr :=
  match decodeBytes (bytesOfWord (BitVec.ofNat 32 (w % 2 ^ nbits))) with
  | .ok (i, _) => some i
  | .error _ => none

end Sys2Proof
end

