-- ==== Sys2Proof/Machine/State.lean ====
section
/-! DEFINITION. The state of the machine as plain data, the ways a step can stop, and reset. -/

namespace Sys2Proof.Machine

/-- The CSRs of the inventory, by name (`10_state.md` R15). SAVEn has its number `n`; how many of the sixteen exist is
NSAVE (R38). -/
inductive Csr where
  | crmd | prmd | euen | misc | ecfg | estat | era | badv | badi | eentry
  | tlbidx | tlbehi | tlbelo0 | tlbelo1 | asid | pgdl | pgdh | pgd | pwcl | pwch | stlbps
  | save (n : Fin 16)
  | tid | tcfg | tval | cntc | ticlr | llbctl
  | tlbrentry | tlbrbadv | tlbrera | tlbrsave | tlbrelo0 | tlbrelo1 | tlbrehi | tlbrprmd
  | merrctl | merrinfo1 | merrinfo2 | merrentry | merrera | merrsave
  | dmw0 | dmw1 | dmw2 | dmw3
  | dbg | dera | dsave
  deriving DecidableEq, Repr

/-- What the CSRs store (R15). A register of width class 32 is a `Word32`; a GR-wide register is a `Word`. -/
structure Csrs where
  /-- CRMD 0x0 (R17) -/
  crmd : Word32
  /-- PRMD 0x1 (R18) -/
  prmd : Word32
  /-- EUEN 0x2 (R19) -/
  euen : Word32
  /-- MISC 0x3 (R20) -/
  misc : Word32
  /-- ECFG 0x4 (R21) -/
  ecfg : Word32
  /-- ESTAT 0x5 (R22): IS[1:0], ECODE and ESUBCODE; IS[12:2] is no storage but a view of `State.lines` (R65) -/
  estat : Word32
  /-- ERA 0x6 (R23) -/
  era : Word
  /-- BADV 0x7 (R24) -/
  badv : Word
  /-- BADI 0x8 (R25) -/
  badi : Word32
  /-- EENTRY 0xC (R26) -/
  eentry : Word
  /-- TLBIDX 0x10 (R27) -/
  tlbidx : Word32
  /-- TLBEHI 0x11 (R28) -/
  tlbehi : Word
  /-- TLBELO0 0x12 (R29) -/
  tlbelo0 : Word
  /-- TLBELO1 0x13 (R30) -/
  tlbelo1 : Word
  /-- ASID 0x18 (R31) -/
  asid : Word32
  /-- PGDL 0x19 (R32) -/
  pgdl : Word
  /-- PGDH 0x1A (R33) -/
  pgdh : Word
  /-- PGD 0x1B (R34) -/
  pgd : Word
  /-- PWCL 0x1C (R35) -/
  pwcl : Word32
  /-- PWCH 0x1D (R36) -/
  pwch : Word32
  /-- STLBPS 0x1E (R37) -/
  stlbps : Word32
  /-- SAVE0 to SAVE15, 0x30+n (R38) -/
  save : Vector Word 16
  /-- TID 0x40 (R39) -/
  tid : Word32
  /-- TCFG 0x41 (R40) -/
  tcfg : Word
  /-- TVAL 0x42 (R41) -/
  tval : Word
  /-- CNTC 0x43 (R42) -/
  cntc : Word
  /-- TICLR 0x44 (R43) -/
  ticlr : Word32
  /-- LLBCTL 0x60 (R44) -/
  llbctl : Word32
  /-- TLBRENTRY 0x88 (R45) -/
  tlbrentry : Word
  /-- TLBRBADV 0x89 (R46) -/
  tlbrbadv : Word
  /-- TLBRERA 0x8A (R47) -/
  tlbrera : Word
  /-- TLBRSAVE 0x8B (R48) -/
  tlbrsave : Word
  /-- TLBRELO0 0x8C (R49) -/
  tlbrelo0 : Word
  /-- TLBRELO1 0x8D (R50) -/
  tlbrelo1 : Word
  /-- TLBREHI 0x8E (R51) -/
  tlbrehi : Word
  /-- TLBRPRMD 0x8F (R52) -/
  tlbrprmd : Word32
  /-- MERRCTL 0x90 (R53) -/
  merrctl : Word32
  /-- MERRINFO1 0x91 (R54) -/
  merrinfo1 : Word
  /-- MERRINFO2 0x92 (R55) -/
  merrinfo2 : Word
  /-- MERRENTRY 0x93 (R56) -/
  merrentry : Word
  /-- MERRERA 0x94 (R57) -/
  merrera : Word
  /-- MERRSAVE 0x95 (R58) -/
  merrsave : Word
  /-- DMW0 0x180 (R59) -/
  dmw0 : Word
  /-- DMW1 0x181 (R59) -/
  dmw1 : Word
  /-- DMW2 0x182 (R59) -/
  dmw2 : Word
  /-- DMW3 0x183 (R59) -/
  dmw3 : Word
  /-- DBG 0x500 (R60) -/
  dbg : Word32
  /-- DERA 0x501 (R61) -/
  dera : Word
  /-- DSAVE 0x502 (R62) -/
  dsave : Word
  deriving DecidableEq, Repr

/-- Memory: (address, byte) pairs. An address that is not listed has no value (assumption log 35). -/
abbrev Memory := List Host.Cell

/-- The canonical form: addresses strictly rising. Every listed byte differs from what an unlisted address reads as,
which is no value at all. -/
def Memory.wf : Memory → Bool
  | [] => true
  | [_] => true
  | (a, _) :: (b, y) :: m => decide (a < b) && Memory.wf ((b, y) :: m)

/-- The machine. -/
structure State where
  /-- the parameters of `00_scope.md` R6; no step changes them -/
  cfg : Config
  /-- the general registers x[0] to x[31] (R10, R11); entry 0 is never written and never read -/
  gpr : Vector Word 32
  /-- the program counter (R12) -/
  pc : Word
  /-- the CSRs (R15) -/
  csr : Csrs
  /-- the LLBit (R64) -/
  llbit : Bool
  /-- the present level of the 11 interrupt lines: bit k is ESTAT.IS[k+2] (R65) -/
  lines : BitVec 11
  /-- the MODEL's own field: IRQ_ORACLE, the levels the environment will drive at the coming boundaries; once it is
  used up the lines keep their level (log 21) -/
  oracle : List (BitVec 11)
  /-- the MODEL's own field: how many free values have been drawn (log 43) -/
  draws : Nat
  /-- program memory (`20_memory.md` R80, R84) -/
  mem : Memory
  deriving DecidableEq, Repr

/-- The ways the machine stops with a fault: none. The spec's exceptions are no faults, since they are taken, and
wherever the spec lets a model of it stop it says "refuse" (`93_implementation_defined.md` part 1; log 35). -/
inductive Fault where
  deriving DecidableEq, Repr

/-- The ways a step is refused. -/
inductive Refusal where
  /-- Raised by `exec` for an instruction that has no meaning yet. Safe. No arm uses it. -/
  | notModelled (mnemonic : String)
  /-- Raised by the step when CRMD.DA = CRMD.PG, which is no defined translation mode (`10_state.md` R17,
  `93_implementation_defined.md` U5). Safe. -/
  | undefinedTranslationMode
  /-- Raised by the step when CRMD.DA = 0 and CRMD.PG = 1: mapped translation is not in the spec (`20_memory.md` R88,
  U6). Safe. -/
  | mappedTranslation
  /-- Raised by the fetch when nothing was placed at one of the four bytes of the word at `pc`
  (`70_reset_and_hazards.md` R233 line 5: "refuse if no program word there"; log 35). Safe: the model stops. -/
  | noProgramWord (pc : Word)
  /-- Raised by the step for a word that matches no row (`30_encoding.md` R107, U10) or that the spec only names
  (G30). Safe. -/
  | undecoded (e : DecodeError)
  /-- Raised by an instruction whose `pc + 4` would pass the top of the address space (`10_state.md` R12, U11).
  Safe. -/
  | pcPastTop
  /-- Raised by a CSR access to a register with unknown fields when CSR_OPAQUE_POLICY is `refuse` (R67, U3). Safe. -/
  | unknownFields (r : Csr)
  /-- Raised by a CSR write or an ERTN that would put PLV 1 or 2 into CRMD on a core that has only PLV0 and PLV3
  (R17, U7). Safe. -/
  | plvNotImplemented
  /-- Raised by a CSR write that would make MISC non-zero: the privileges it would relax are not in the spec
  (R20, U13). Safe. -/
  | miscRelaxation
  deriving DecidableEq, Repr

/-- Every CSR bit 0. -/
def Csrs.zero : Csrs where
  crmd := 0
  prmd := 0
  euen := 0
  misc := 0
  ecfg := 0
  estat := 0
  era := 0
  badv := 0
  badi := 0
  eentry := 0
  tlbidx := 0
  tlbehi := 0
  tlbelo0 := 0
  tlbelo1 := 0
  asid := 0
  pgdl := 0
  pgdh := 0
  pgd := 0
  pwcl := 0
  pwch := 0
  stlbps := 0
  save := Vector.replicate 16 0
  tid := 0
  tcfg := 0
  tval := 0
  cntc := 0
  ticlr := 0
  llbctl := 0
  tlbrentry := 0
  tlbrbadv := 0
  tlbrera := 0
  tlbrsave := 0
  tlbrelo0 := 0
  tlbrelo1 := 0
  tlbrehi := 0
  tlbrprmd := 0
  merrctl := 0
  merrinfo1 := 0
  merrinfo2 := 0
  merrentry := 0
  merrera := 0
  merrsave := 0
  dmw0 := 0
  dmw1 := 0
  dmw2 := 0
  dmw3 := 0
  dbg := 0
  dera := 0
  dsave := 0

/-- Power-on contents that are 0 everywhere, with nothing in memory and every interrupt line low: the value log 4 names
for what reset leaves unspecified. -/
def State.blank : State where
  cfg := Config.default
  gpr := Vector.replicate 32 0
  pc := 0
  csr := Csrs.zero
  llbit := false
  lines := 0
  oracle := []
  draws := 0
  mem := []

/-- The CSRs after reset (`10_state.md` R71). What R71 leaves unspecified stands as in `u`. The positions of TCFG.En
(bit 0), LLBCTL.KLO (bit 2) and the DMW bits PLV0 to PLV3 (bits 3:0) are those of `93_implementation_defined.md` G29;
EUEN is cleared whole, since the spec does not place its enable bits. -/
def Csrs.resetOf (u : Csrs) : Csrs :=
  { u with
    crmd := 0x008
    euen := 0
    misc := 0
    ecfg := 0
    estat := u.estat &&& ~~~0x3
    tlbrera := u.tlbrera &&& ~~~0x1
    merrctl := u.merrctl &&& ~~~0x1
    tcfg := u.tcfg &&& ~~~0x1
    llbctl := u.llbctl &&& ~~~0x4
    dmw0 := u.dmw0 &&& ~~~0xF
    dmw1 := u.dmw1 &&& ~~~0xF
    dmw2 := u.dmw2 &&& ~~~0xF
    dmw3 := u.dmw3 &&& ~~~0xF }

/-- The machine of configuration `c` right after reset, from power-on contents `u` (R71, `70_reset_and_hazards.md`
R230). -/
def State.resetOf (c : Config) (u : State) : State :=
  { u with
    cfg := c
    gpr := u.gpr.set 0 0
    pc := c.resetPc
    csr := u.csr.resetOf }

/-- The machine right after reset: the default configuration, and 0 for everything R71 leaves unspecified (log 1, 4). -/
def State.reset : State := State.resetOf Config.default State.blank

end Sys2Proof.Machine
end

