-- ==== Sys2Proof/Machine/Flags.lean ====
section
/-! DEFINITION. The architecture has no status flags (`10_state.md` R13). This file holds the control bits and fields
inside the CSRs that the rules read and write: one reader per field, and the updates of CRMD, the saved-mode registers
and ESTAT as the hardware makes them (a hardware write is not limited by the software-writable mask, R16). -/

namespace Sys2Proof.Machine

/-- Bits `lo + n - 1 : lo` of a register (`00_scope.md` R7). -/
def getField {w : Nat} (v : BitVec w) (lo n : Nat) : BitVec n := v.extractLsb' lo n

/-- A register with `f` in bits `lo + n - 1 : lo` and its other bits kept. -/
def setField {w n : Nat} (v : BitVec w) (lo : Nat) (f : BitVec n) : BitVec w :=
  (v &&& ~~~((BitVec.allOnes n).setWidth w <<< lo)) ||| (f.setWidth w <<< lo)

/-- A watchpoint enable bit: without watchpoints WE and the PWE fields read 0 (`41_exception_return.md` R142, D38). -/
def watched (c : Config) (f : BitVec 1) : BitVec 1 := if c.watch then f else 0

/-! ### CRMD (R17) -/

/-- CRMD.PLV, the current privilege level. -/
def State.plv (s : State) : BitVec 2 := getField s.csr.crmd 0 2
/-- CRMD.IE, the global interrupt enable. -/
def State.ie (s : State) : BitVec 1 := getField s.csr.crmd 2 1
/-- CRMD.DA, direct address translation. -/
def State.da (s : State) : BitVec 1 := getField s.csr.crmd 3 1
/-- CRMD.PG, mapped address translation. -/
def State.pg (s : State) : BitVec 1 := getField s.csr.crmd 4 1
/-- CRMD.DATF. -/
def State.datf (s : State) : BitVec 2 := getField s.csr.crmd 5 2
/-- CRMD.DATM. -/
def State.datm (s : State) : BitVec 2 := getField s.csr.crmd 7 2
/-- CRMD.WE, the watchpoint enable. -/
def State.we (s : State) : BitVec 1 := watched s.cfg (getField s.csr.crmd 9 1)

/-- CRMD with PLV, IE and WE written. -/
def crmdWithMode (v : Word32) (plv : BitVec 2) (ie we : BitVec 1) : Word32 :=
  setField (setField (setField v 0 plv) 2 ie) 9 we

/-- CRMD with DA and PG written. -/
def crmdWithTranslation (v : Word32) (da pg : BitVec 1) : Word32 := setField (setField v 3 da) 4 pg

/-- CRMD with DATF and DATM written. -/
def crmdWithAccessTypes (v : Word32) (datf datm : BitVec 2) : Word32 := setField (setField v 5 datf) 7 datm

/-- A privilege level the core has (PLV_SET, `00_scope.md` R6, D32). -/
def plvLegal (c : Config) (plv : BitVec 2) : Bool :=
  match c.plvSet with
  | .allFour => true
  | .zeroAndThree => plv == 0 || plv == 3

/-! ### The saved modes: PRMD (R18), TLBRPRMD (R52), MERRCTL (R53) -/

/-- PRMD.PPLV. -/
def State.pplv (s : State) : BitVec 2 := getField s.csr.prmd 0 2
/-- PRMD.PIE. -/
def State.pie (s : State) : BitVec 1 := getField s.csr.prmd 2 1
/-- PRMD.PWE. -/
def State.pwe (s : State) : BitVec 1 := watched s.cfg (getField s.csr.prmd 3 1)
/-- TLBRPRMD.PPLV. -/
def State.tlbrPplv (s : State) : BitVec 2 := getField s.csr.tlbrprmd 0 2
/-- TLBRPRMD.PIE. -/
def State.tlbrPie (s : State) : BitVec 1 := getField s.csr.tlbrprmd 2 1
/-- TLBRPRMD.PWE: bit 4, not bit 3 (R142). -/
def State.tlbrPwe (s : State) : BitVec 1 := watched s.cfg (getField s.csr.tlbrprmd 4 1)
/-- MERRCTL.IsMERR. -/
def State.isMerr (s : State) : BitVec 1 := getField s.csr.merrctl 0 1
/-- MERRCTL.PPLV. -/
def State.merrPplv (s : State) : BitVec 2 := getField s.csr.merrctl 2 2
/-- MERRCTL.PIE. -/
def State.merrPie (s : State) : BitVec 1 := getField s.csr.merrctl 4 1
/-- MERRCTL.PWE. -/
def State.merrPwe (s : State) : BitVec 1 := watched s.cfg (getField s.csr.merrctl 6 1)
/-- MERRCTL.PDA. -/
def State.merrPda (s : State) : BitVec 1 := getField s.csr.merrctl 7 1
/-- MERRCTL.PPG. -/
def State.merrPpg (s : State) : BitVec 1 := getField s.csr.merrctl 8 1
/-- MERRCTL.PDATF. -/
def State.merrPdatf (s : State) : BitVec 2 := getField s.csr.merrctl 9 2
/-- MERRCTL.PDATM. -/
def State.merrPdatm (s : State) : BitVec 2 := getField s.csr.merrctl 11 2

/-- PRMD with the three saved fields written (R195 step 1). -/
def prmdSaving (v : Word32) (plv : BitVec 2) (ie we : BitVec 1) : Word32 :=
  setField (setField (setField v 0 plv) 2 ie) 3 we

/-- TLBRPRMD with the three saved fields written (R198). -/
def tlbrprmdSaving (v : Word32) (plv : BitVec 2) (ie we : BitVec 1) : Word32 :=
  setField (setField (setField v 0 plv) 2 ie) 4 we

/-- MERRCTL with the mode of `s` saved, IsMERR set and the report recorded (R200). -/
def merrctlSaving (v : Word32) (s : State) (repairable : BitVec 1) (cause : BitVec 8) : Word32 :=
  let mode := setField (setField (setField v 2 s.plv) 4 s.ie) 6 s.we
  let translation := setField (setField (setField (setField mode 7 s.da) 8 s.pg) 9 s.datf) 11 s.datm
  setField (setField (setField translation 0 1#1) 1 repairable) 16 cause

/-! ### TLBRERA (R47) and LLBCTL (R44) -/

/-- TLBRERA.IsTLBR. -/
def State.isTlbr (s : State) : BitVec 1 := getField s.csr.tlbrera 0 1
/-- LLBCTL.KLO: bit 2 by `93_implementation_defined.md` G29 (log 29). -/
def State.klo (s : State) : BitVec 1 := getField s.csr.llbctl 2 1

/-! ### ECFG (R21) and ESTAT (R22) -/

/-- ECFG.LIE, the 13 local interrupt enables. -/
def State.lie (s : State) : BitVec 13 := getField s.csr.ecfg 0 13
/-- ECFG.VS, the spacing of exception entries. -/
def State.vs (s : State) : BitVec 3 := getField s.csr.ecfg 16 3
/-- ESTAT.IS: the software interrupts IS[1:0] are storage, IS[12:2] is the level of the lines (R65). -/
def State.is (s : State) : BitVec 13 := s.lines ++ getField s.csr.estat 0 2
/-- ESTAT.ECODE. -/
def State.ecode (s : State) : BitVec 6 := getField s.csr.estat 16 6
/-- ESTAT.ESUBCODE. -/
def State.esubcode (s : State) : BitVec 9 := getField s.csr.estat 22 9

/-- ESTAT with the two exception codes written (R195 step 3). -/
def estatWithCodes (v : Word32) (ecode : BitVec 6) (esubcode : BitVec 9) : Word32 :=
  setField (setField v 16 ecode) 22 esubcode

end Sys2Proof.Machine
end

