-- ==== Sys2Proof/Machine/Operands.lean ====
section
/-! DEFINITION. The operand forms: general registers, CSR numbers, and the value and masks of each CSR. -/

namespace Sys2Proof.Machine

/-! ### Widths -/

/-- The bits of a `Word` that GRLEN uses. -/
def grMask (c : Config) : Word :=
  match c.arch with
  | .la32 => 0xFFFFFFFF
  | .la64 => 0xFFFFFFFFFFFFFFFF

/-- A value cut to GRLEN bits (`00_scope.md` R7: arithmetic modulo 2^GRLEN). -/
def narrow (c : Config) (v : Word) : Word := v &&& grMask c

/-- `sext_GRLEN` of a 32-bit value: under LA64 bit 31 is copied upward, under LA32 it is the value itself (R14). -/
def sext32 (c : Config) (v : Word32) : Word :=
  match c.arch with
  | .la32 => v.setWidth 64
  | .la64 => v.signExtend 64

/-! ### General registers (R10, R11) -/

/-- x[i]: register 0 reads 0. -/
def State.x (s : State) (i : Reg) : Word := if i = 0 then 0 else narrow s.cfg s.gpr[i.toFin]

/-- x[i] <- v: a write to register 0 is dropped. -/
def State.setX (s : State) (i : Reg) (v : Word) : State :=
  if i = 0 then s else { s with gpr := s.gpr.set i.toFin (narrow s.cfg v) }

/-! ### CSR numbers (R14, R15) -/

/-- The number of a CSR (R15). -/
def Csr.num : Csr → Nat
  | .crmd => 0x0
  | .prmd => 0x1
  | .euen => 0x2
  | .misc => 0x3
  | .ecfg => 0x4
  | .estat => 0x5
  | .era => 0x6
  | .badv => 0x7
  | .badi => 0x8
  | .eentry => 0xC
  | .tlbidx => 0x10
  | .tlbehi => 0x11
  | .tlbelo0 => 0x12
  | .tlbelo1 => 0x13
  | .asid => 0x18
  | .pgdl => 0x19
  | .pgdh => 0x1A
  | .pgd => 0x1B
  | .pwcl => 0x1C
  | .pwch => 0x1D
  | .stlbps => 0x1E
  | .save n => 0x30 + n
  | .tid => 0x40
  | .tcfg => 0x41
  | .tval => 0x42
  | .cntc => 0x43
  | .ticlr => 0x44
  | .llbctl => 0x60
  | .tlbrentry => 0x88
  | .tlbrbadv => 0x89
  | .tlbrera => 0x8A
  | .tlbrsave => 0x8B
  | .tlbrelo0 => 0x8C
  | .tlbrelo1 => 0x8D
  | .tlbrehi => 0x8E
  | .tlbrprmd => 0x8F
  | .merrctl => 0x90
  | .merrinfo1 => 0x91
  | .merrinfo2 => 0x92
  | .merrentry => 0x93
  | .merrera => 0x94
  | .merrsave => 0x95
  | .dmw0 => 0x180
  | .dmw1 => 0x181
  | .dmw2 => 0x182
  | .dmw3 => 0x183
  | .dbg => 0x500
  | .dera => 0x501
  | .dsave => 0x502

/-- The 48 single registers of the inventory, in numeric order (R15). -/
def singleCsrs : List Csr :=
  [.crmd, .prmd, .euen, .misc, .ecfg, .estat, .era, .badv, .badi, .eentry,
   .tlbidx, .tlbehi, .tlbelo0, .tlbelo1, .asid, .pgdl, .pgdh, .pgd, .pwcl, .pwch, .stlbps,
   .tid, .tcfg, .tval, .cntc, .ticlr, .llbctl,
   .tlbrentry, .tlbrbadv, .tlbrera, .tlbrsave, .tlbrelo0, .tlbrelo1, .tlbrehi, .tlbrprmd,
   .merrctl, .merrinfo1, .merrinfo2, .merrentry, .merrera, .merrsave,
   .dmw0, .dmw1, .dmw2, .dmw3, .dbg, .dera, .dsave]

/-- The SAVE registers in numeric order, those a core may have (R38). -/
def saveCsrs : List Csr := (List.finRange 16).map .save

/-- CSR_IMPLEMENTED: whether the core has the register (R6): all of R15, and SAVEn for n below NSAVE. -/
def Csr.implemented (c : Config) : Csr → Bool
  | .save n => decide (n.val < c.nsave)
  | _ => true

/-- The register a `csr_num` addresses; `none` is an undefined CSR (R63). -/
def csrOfNum (c : Config) (n : CsrNum) : Option Csr :=
  (singleCsrs ++ saveCsrs).find? (fun r => r.num == n.toNat && r.implemented c)

/-! ### Width classes, policies and masks -/

/-- Width class GR (R15): the register is GRLEN bits wide. The others are fixed at 32 bits. -/
def Csr.wide : Csr → Bool
  | .crmd | .prmd | .euen | .misc | .ecfg | .estat | .badi | .tlbidx | .asid | .pwcl | .pwch | .stlbps
  | .tid | .ticlr | .llbctl | .tlbrprmd | .merrctl | .dbg => false
  | .era | .badv | .eentry | .tlbehi | .tlbelo0 | .tlbelo1 | .pgdl | .pgdh | .pgd | .save _
  | .tcfg | .tval | .cntc | .tlbrentry | .tlbrbadv | .tlbrera | .tlbrsave | .tlbrelo0 | .tlbrelo1 | .tlbrehi
  | .merrinfo1 | .merrinfo2 | .merrentry | .merrera | .merrsave | .dmw0 | .dmw1 | .dmw2 | .dmw3
  | .dera | .dsave => true

/-- The 32 registers whose fields the source does not give (R67). -/
def Csr.fieldsUnknown : Csr → Bool
  | .euen | .misc | .tlbidx | .tlbehi | .tlbelo0 | .tlbelo1 | .asid | .pgdl | .pgdh | .pgd | .pwcl | .pwch | .stlbps
  | .tid | .tcfg | .tval | .cntc | .ticlr | .llbctl | .tlbrelo0 | .tlbrelo1 | .tlbrehi
  | .merrinfo1 | .merrinfo2 | .merrentry | .dmw0 | .dmw1 | .dmw2 | .dmw3 | .dbg | .dera | .dsave => true
  | .crmd | .prmd | .ecfg | .estat | .era | .badv | .badi | .eentry | .save _
  | .tlbrentry | .tlbrbadv | .tlbrera | .tlbrsave | .tlbrprmd | .merrctl | .merrera | .merrsave => false

/-- All bits of a register's width. -/
def Csr.widthMask (c : Config) (r : Csr) : Word := if r.wide then grMask c else 0xFFFFFFFF

/-- A register mask without the bits of `bit` when the core has no watchpoints (R142, D38). -/
def watchMask (c : Config) (m bit : Word) : Word := if c.watch then m else m &&& ~~~bit

/-- The bits of a register that are fields; the others are R0 or reserved and read 0 (R16 to R26, R45, R47, R52, R53).
For ESTAT these are the stored fields; its bits 12:2 are the lines. -/
def Csr.fieldMask (c : Config) (r : Csr) : Word :=
  match r with
  | .crmd => watchMask c 0x000003FF 0x200
  | .prmd => watchMask c 0x0000000F 0x8
  | .ecfg => 0x00071FFF
  | .estat => 0x7FFF0003
  | .eentry => grMask c &&& (BitVec.allOnes 64 <<< c.eentryZeroBits)
  | .tlbrentry => grMask c &&& ~~~0xFFF
  | .tlbrera => grMask c &&& ~~~0x2
  | .tlbrprmd => watchMask c 0x00000017 0x10
  | .merrctl => watchMask c 0x00FF1FDF 0x40
  | r => r.widthMask c

/-- `wmask(n)`, the software-writable bits (R16 and each register's rule). -/
def Csr.writeMask (c : Config) (r : Csr) : Word :=
  match r with
  | .estat => 0x00000003
  | .badi => 0
  | .merrctl => watchMask c 0x00001FDC 0x40
  | r => r.fieldMask c

/-! ### Stored contents and values of the CSRs -/

/-- The stored contents of a CSR, in the low bits of a `Word`. -/
def Csrs.get (k : Csrs) : Csr → Word
  | .crmd => k.crmd.setWidth 64
  | .prmd => k.prmd.setWidth 64
  | .euen => k.euen.setWidth 64
  | .misc => k.misc.setWidth 64
  | .ecfg => k.ecfg.setWidth 64
  | .estat => k.estat.setWidth 64
  | .era => k.era
  | .badv => k.badv
  | .badi => k.badi.setWidth 64
  | .eentry => k.eentry
  | .tlbidx => k.tlbidx.setWidth 64
  | .tlbehi => k.tlbehi
  | .tlbelo0 => k.tlbelo0
  | .tlbelo1 => k.tlbelo1
  | .asid => k.asid.setWidth 64
  | .pgdl => k.pgdl
  | .pgdh => k.pgdh
  | .pgd => k.pgd
  | .pwcl => k.pwcl.setWidth 64
  | .pwch => k.pwch.setWidth 64
  | .stlbps => k.stlbps.setWidth 64
  | .save n => k.save[n]
  | .tid => k.tid.setWidth 64
  | .tcfg => k.tcfg
  | .tval => k.tval
  | .cntc => k.cntc
  | .ticlr => k.ticlr.setWidth 64
  | .llbctl => k.llbctl.setWidth 64
  | .tlbrentry => k.tlbrentry
  | .tlbrbadv => k.tlbrbadv
  | .tlbrera => k.tlbrera
  | .tlbrsave => k.tlbrsave
  | .tlbrelo0 => k.tlbrelo0
  | .tlbrelo1 => k.tlbrelo1
  | .tlbrehi => k.tlbrehi
  | .tlbrprmd => k.tlbrprmd.setWidth 64
  | .merrctl => k.merrctl.setWidth 64
  | .merrinfo1 => k.merrinfo1
  | .merrinfo2 => k.merrinfo2
  | .merrentry => k.merrentry
  | .merrera => k.merrera
  | .merrsave => k.merrsave
  | .dmw0 => k.dmw0
  | .dmw1 => k.dmw1
  | .dmw2 => k.dmw2
  | .dmw3 => k.dmw3
  | .dbg => k.dbg.setWidth 64
  | .dera => k.dera
  | .dsave => k.dsave

/-- The CSRs with the contents of one replaced; a 32-bit register takes the low 32 bits. -/
def Csrs.put (k : Csrs) (r : Csr) (v : Word) : Csrs :=
  match r with
  | .crmd => { k with crmd := v.setWidth 32 }
  | .prmd => { k with prmd := v.setWidth 32 }
  | .euen => { k with euen := v.setWidth 32 }
  | .misc => { k with misc := v.setWidth 32 }
  | .ecfg => { k with ecfg := v.setWidth 32 }
  | .estat => { k with estat := v.setWidth 32 }
  | .era => { k with era := v }
  | .badv => { k with badv := v }
  | .badi => { k with badi := v.setWidth 32 }
  | .eentry => { k with eentry := v }
  | .tlbidx => { k with tlbidx := v.setWidth 32 }
  | .tlbehi => { k with tlbehi := v }
  | .tlbelo0 => { k with tlbelo0 := v }
  | .tlbelo1 => { k with tlbelo1 := v }
  | .asid => { k with asid := v.setWidth 32 }
  | .pgdl => { k with pgdl := v }
  | .pgdh => { k with pgdh := v }
  | .pgd => { k with pgd := v }
  | .pwcl => { k with pwcl := v.setWidth 32 }
  | .pwch => { k with pwch := v.setWidth 32 }
  | .stlbps => { k with stlbps := v.setWidth 32 }
  | .save n => { k with save := k.save.set n v }
  | .tid => { k with tid := v.setWidth 32 }
  | .tcfg => { k with tcfg := v }
  | .tval => { k with tval := v }
  | .cntc => { k with cntc := v }
  | .ticlr => { k with ticlr := v.setWidth 32 }
  | .llbctl => { k with llbctl := v.setWidth 32 }
  | .tlbrentry => { k with tlbrentry := v }
  | .tlbrbadv => { k with tlbrbadv := v }
  | .tlbrera => { k with tlbrera := v }
  | .tlbrsave => { k with tlbrsave := v }
  | .tlbrelo0 => { k with tlbrelo0 := v }
  | .tlbrelo1 => { k with tlbrelo1 := v }
  | .tlbrehi => { k with tlbrehi := v }
  | .tlbrprmd => { k with tlbrprmd := v.setWidth 32 }
  | .merrctl => { k with merrctl := v.setWidth 32 }
  | .merrinfo1 => { k with merrinfo1 := v }
  | .merrinfo2 => { k with merrinfo2 := v }
  | .merrentry => { k with merrentry := v }
  | .merrera => { k with merrera := v }
  | .merrsave => { k with merrsave := v }
  | .dmw0 => { k with dmw0 := v }
  | .dmw1 => { k with dmw1 := v }
  | .dmw2 => { k with dmw2 := v }
  | .dmw3 => { k with dmw3 := v }
  | .dbg => { k with dbg := v.setWidth 32 }
  | .dera => { k with dera := v }
  | .dsave => { k with dsave := v }

/-- The lines as they stand in bits 12:2 of ESTAT (R22, R65). -/
def linesInEstat (s : State) : Word := s.lines.setWidth 64 <<< 2

/-- The current value of a CSR, composed field by field (`40_csr_access.md` R121): fields give their stored value, R0
and reserved bits 0, ESTAT[12:2] the present level of the lines. -/
def State.csrValue (s : State) (r : Csr) : Word :=
  let stored := s.csr.get r &&& r.fieldMask s.cfg
  match r with
  | .estat => stored ||| linesInEstat s
  | _ => stored

/-- What a CSR access instruction puts into a general register: a 32-bit CSR is sign-extended (R14, R121). -/
def State.csrForGr (s : State) (r : Csr) : Word :=
  if r.wide then s.csrValue r else sext32 s.cfg ((s.csrValue r).setWidth 32)

end Sys2Proof.Machine
end

