-- ==== Sys2Proof/Machine/Ops.lean ====
section
/-! DEFINITION. The shared operations: memory, the end of an instruction, reading and writing a CSR, the exceptions and
the three trap entries, the return from an exception, interrupts, and what happens at an instruction boundary up to the
fetched word. -/

namespace Sys2Proof.Machine

/-- How an instruction ends. -/
abbrev Result := Host.Outcome State Fault Refusal

/-! ### Memory (`20_memory.md` R80 to R88) -/

/-- The byte at an address; `none` where nothing was placed. -/
def Memory.read : Memory → Nat → Option Byte
  | [], _ => none
  | (b, y) :: m, a => if a = b then some y else Memory.read m a

/-- The memory with one byte placed; the canonical form is kept. -/
def Memory.write : Memory → Nat → Byte → Memory
  | [], a, x => [(a, x)]
  | (b, y) :: m, a, x =>
    if a < b then (a, x) :: (b, y) :: m
    else if a = b then (a, x) :: m
    else (b, y) :: Memory.write m a x

/-- `MemRead(addr, n)` (`00_scope.md` R7): the bytes at `a` to `a + n - 1`, the lowest address first. -/
def Memory.readBytes (m : Memory) (a : Nat) : Nat → Option (List Byte)
  | 0 => some []
  | n + 1 =>
    match Memory.read m a, Memory.readBytes m (a + 1) n with
    | some b, some bs => some (b :: bs)
    | _, _ => none

/-- `MemWrite(addr, n, v)` (R7): bytes placed from `a` upward. No instruction of the spec uses it (R81); a program is
placed with it. -/
def Memory.writeBytes (m : Memory) (a : Nat) : List Byte → Memory
  | [] => m
  | b :: bs => Memory.writeBytes (Memory.write m a b) (a + 1) bs

/-- Direct address translation: the physical address is the virtual one, truncated to PALEN bits (R88, G42). -/
def physAddr (c : Config) (va : Word) : Nat := va.toNat % 2 ^ c.palen

/-- The instruction word at an address, if a program word is there: one 4-byte little-endian access (R82, R84). -/
def fetchWord (s : State) (va : Word) : Option Word32 :=
  match Memory.readBytes s.mem (physAddr s.cfg va) 4 with
  | some [b0, b1, b2, b3] => some (wordOfBytes b0 b1 b2 b3)
  | _ => none

/-- The state with an instruction word placed at an address, as a loader places it (R231). -/
def placeWord (s : State) (va : Word) (w : Word32) : State :=
  { s with mem := Memory.writeBytes s.mem (physAddr s.cfg va) (bytesOfWord w) }

/-! ### The end of an instruction that does not transfer control -/

/-- `pc <- pc + 4`; refused where that passes the top of the address space (`10_state.md` R12, D3). -/
def advance (s : State) : Result :=
  if s.pc.toNat + 4 < 2 ^ s.cfg.grlen then .next { s with pc := s.pc + 4 } else .refused .pcPastTop

/-! ### Reading and writing a CSR (`40_csr_access.md` R121, R122) -/

/-- Whether a CSR access to the register is refused under CSR_OPAQUE_POLICY (R67). -/
def accessRefused (c : Config) (r : Csr) : Bool := r.fieldsUnknown && c.opaquePolicy == .refuse

/-- `csr_read(n)` (R121). An undefined CSR gives a free value, a fresh one at each read (R63). -/
def csrRead (n : CsrNum) (s : State) : Except Refusal (Word × State) :=
  match csrOfNum s.cfg n with
  | none => .ok (narrow s.cfg (Config.undefinedCsr s.draws), { s with draws := s.draws + 1 })
  | some r => if accessRefused s.cfg r then .error (.unknownFields r) else .ok (s.csrForGr r, s)

/-- The bits a write stores: those selected by the mask and the software-writable mask come from `v`, the others from
`old` (R122). -/
def mergeMasked (old v w : Word) : Word := (old &&& ~~~w) ||| (v &&& w)

/-- A CSR with new contents, refused where the spec says a model must refuse: a PLV the core lacks (R17, U7) and a
non-zero MISC (R20, U13). -/
def csrStore (r : Csr) (new : Word) (s : State) : Except Refusal State :=
  match r with
  | .crmd => if plvLegal s.cfg (getField new 0 2) then .ok { s with csr := s.csr.put .crmd new }
             else .error .plvNotImplemented
  | .misc => if new = 0 then .ok { s with csr := s.csr.put .misc new } else .error .miscRelaxation
  | r => .ok { s with csr := s.csr.put r new }

/-- `csr_write(n, v, m)` (R122). A write to an undefined CSR changes nothing (R63). -/
def csrWrite (n : CsrNum) (v m : Word) (s : State) : Except Refusal State :=
  match csrOfNum s.cfg n with
  | none => .ok s
  | some r =>
    if accessRefused s.cfg r then .error (.unknownFields r)
    else csrStore r (mergeMasked (s.csr.get r) v (r.writeMask s.cfg &&& m)) s

/-- The body of CSRRD at PLV0 (R123): the CSR into x[rd]. -/
def csrToGr (rd : Reg) (n : CsrNum) (s : State) : Result :=
  match csrRead n s with
  | .error r => .refused r
  | .ok (old, s1) => advance (s1.setX rd old)

/-- The body of CSRWR and CSRXCHG at PLV0 (R124, R125): the CSR under a mask from `new`, then its old value into x[rd].
`new` and `mask` are read before x[rd] is written. -/
def csrExchange (rd : Reg) (n : CsrNum) (new mask : Word) (s : State) : Result :=
  match csrRead n s with
  | .error r => .refused r
  | .ok (old, s1) =>
    match csrWrite n new mask s1 with
    | .error r => .refused r
    | .ok s2 => advance (s2.setX rd old)

/-! ### The exceptions (`60_exceptions.md`) -/

/-- The six classes of R160. -/
inductive ExceptionClass where
  | externalEvent
  | executionError
  | dataIntegrity
  | addressTranslation
  | systemCallOrTrap
  | softwareCorrection
  deriving DecidableEq, Repr

/-- The 25 rows of the exception table (R161 to R185). -/
inductive Exception where
  | pil | pis | pif | pme | pnr | pnx | ppi
  | adef | adem | ale | bce
  | sys | brk | ine | ipe
  | fpd | sxd | asxd | fpe | vfpe | wpef | wpem
  | int | tlbr | merr
  deriving DecidableEq, Repr

/-- Ecode and Esubcode of an ordinary exception (R161 to R183); a blank Esubcode is 0 (R189). The TLB refill and machine
error exceptions record none (R184, R185). -/
def Exception.codes : Exception → Option (BitVec 6 × BitVec 9)
  | .pil => some (0x1, 0)
  | .pis => some (0x2, 0)
  | .pif => some (0x3, 0)
  | .pme => some (0x4, 0)
  | .pnr => some (0x5, 0)
  | .pnx => some (0x6, 0)
  | .ppi => some (0x7, 0)
  | .adef => some (0x8, 0)
  | .adem => some (0x8, 1)
  | .ale => some (0x9, 0)
  | .bce => some (0xA, 0)
  | .sys => some (0xB, 0)
  | .brk => some (0xC, 0)
  | .ine => some (0xD, 0)
  | .ipe => some (0xE, 0)
  | .fpd => some (0xF, 0)
  | .sxd => some (0x10, 0)
  | .asxd => some (0x11, 0)
  | .fpe => some (0x12, 0)
  | .vfpe => some (0x12, 1)
  | .wpef => some (0x13, 0)
  | .wpem => some (0x13, 1)
  | .int => some (0x0, 0)
  | .tlbr => none
  | .merr => none

/-- The class the source's table assigns (R160 to R185). It has no effect on any behaviour (`90_conflicts.md` C10). -/
def Exception.cls : Exception → ExceptionClass
  | .pil | .pis | .pif | .pme | .pnr | .pnx | .ppi | .tlbr => .addressTranslation
  | .adef | .adem | .ale | .bce | .ine | .ipe => .executionError
  | .sys | .brk | .fpd | .sxd | .asxd | .wpef | .wpem => .systemCallOrTrap
  | .fpe | .vfpe => .softwareCorrection
  | .int => .externalEvent
  | .merr => .dataIntegrity

/-- The synchronous exceptions, which write BADI: all but INT and MERR (R187, `10_state.md` R25). -/
def Exception.synchronous : Exception → Bool
  | .int | .merr => false
  | _ => true

/-- The exceptions that write BADV (R194). -/
def Exception.writesBadv : Exception → Bool
  | .adef | .adem | .ale | .bce | .pil | .pis | .pif | .pme | .pnr | .pnx | .ppi => true
  | _ => false

/-- What is known of the event beside its kind (`raise <Exception>(info)`, `00_scope.md` R7). -/
structure TrapInfo where
  /-- the fetched instruction word; `none` when the fetch itself raised the exception -/
  inst : Option Word32
  /-- the faulting virtual address, for the exceptions that record one -/
  badva : Word
  deriving DecidableEq, Repr

/-- What BADI receives: the instruction word, or a free value when there is none (R25, D34). -/
def badiOf (info : TrapInfo) (s : State) : Word32 :=
  match info.inst with
  | some w => w
  | none => Config.fetchBadi s.draws

/-- The pending, locally enabled interrupts: `ESTAT.IS & ECFG.LIE` (R190). -/
def State.pending (s : State) : BitVec 13 := s.is &&& s.lie

/-- The winning interrupt: the highest-numbered pending enabled one (R191, D19). -/
def State.winner (s : State) : Nat := Nat.log2 s.pending.toNat

/-- The code an ordinary entry is computed from: the Ecode, or `64 + i` for interrupt `i` (R196, D16). -/
def entryCode (e : Exception) (ecode : BitVec 6) (s : State) : Nat :=
  match e with
  | .int => 64 + s.winner
  | _ => ecode.toNat

/-- The entry address of ordinary exceptions (R196): EENTRY in flat mode, else EENTRY OR `2^(VS+2) * code`. -/
def State.entry (s : State) (code : Nat) : Word :=
  if s.vs = 0 then s.csrValue .eentry
  else s.csrValue .eentry ||| BitVec.ofNat 64 (2 ^ (s.vs.toNat + 2) * code)

/-- Entry of an ordinary exception (R195): the mode into PRMD; PLV, IE and WE to 0; the codes into ESTAT, the pc into
ERA (R197), BADV and BADI where the exception writes them; the pc to the entry. -/
def takeOrdinary (e : Exception) (ecode : BitVec 6) (esub : BitVec 9) (info : TrapInfo) (s : State) : State :=
  { s with
    csr :=
      { s.csr with
        prmd := prmdSaving s.csr.prmd s.plv s.ie s.we
        crmd := crmdWithMode s.csr.crmd 0 0 0
        estat := estatWithCodes s.csr.estat ecode esub
        era := s.pc
        badv := if e.writesBadv then info.badva else s.csr.badv
        badi := if e.synchronous then badiOf info s else s.csr.badi }
    draws := if e.synchronous && info.inst.isNone then s.draws + 1 else s.draws
    pc := s.entry (entryCode e ecode s) }

/-- Entry of the TLB refill exception (R198): its own register set, direct translation, entry at TLBRENTRY. -/
def takeTlbRefill (info : TrapInfo) (s : State) : State :=
  { s with
    csr :=
      { s.csr with
        tlbrprmd := tlbrprmdSaving s.csr.tlbrprmd s.plv s.ie s.we
        crmd := crmdWithTranslation (crmdWithMode s.csr.crmd 0 0 0) 1 0
        tlbrera := setField (setField s.csr.tlbrera 2 (getField s.pc 2 62)) 0 1#1
        tlbrbadv := info.badva
        badi := badiOf info s }
    draws := if info.inst.isNone then s.draws + 1 else s.draws
    pc := s.csrValue .tlbrentry }

/-- Entry of the machine error exception (R200): its own register set, direct translation, entry at MERRENTRY. What the
implementation reports is free. -/
def takeMachineError (s : State) : State :=
  { s with
    csr :=
      { s.csr with
        merrctl := merrctlSaving s.csr.merrctl s (Config.merrRepairable s.draws) (Config.merrCause s.draws)
        crmd := crmdWithAccessTypes (crmdWithTranslation (crmdWithMode s.csr.crmd 0 0 0) 1 0) 0 0
        merrera := s.pc
        merrinfo1 := narrow s.cfg (Config.merrInfo1 s.draws)
        merrinfo2 := narrow s.cfg (Config.merrInfo2 s.draws) }
    draws := s.draws + 1
    pc := s.csrValue .merrentry }

/-- `raise <Exception>(info)` (`00_scope.md` R7): the entry of the exception's kind (R199). -/
def raise (e : Exception) (info : TrapInfo) (s : State) : State :=
  match e.codes with
  | some (ecode, esub) => takeOrdinary e ecode esub info s
  | none => if e = .merr then takeMachineError s else takeTlbRefill info s

/-- An exception that the instruction `i` itself raises. -/
def raiseBy (e : Exception) (i : Instr) (s : State) : Result := .next (raise e ⟨some (encode i), 0⟩ s)

/-- The privilege check of CSRRD, CSRWR, CSRXCHG and ERTN: IPE unless CRMD.PLV is 0 (`40_csr_access.md` R120,
`41_exception_return.md` R140). -/
def privileged (i : Instr) (s : State) (body : Result) : Result :=
  if s.plv = 0 then body else raiseBy .ipe i s

/-! ### Return from an exception (`41_exception_return.md` R140) -/

/-- The scene ERTN returns from (R140, R201). -/
inductive Scene where
  | machineError
  | tlbRefill
  | ordinary
  deriving DecidableEq, Repr

/-- The three-way test in its order: IsMERR first, then IsTLBR. -/
def State.scene (s : State) : Scene :=
  if s.isMerr = 1 then .machineError else if s.isTlbr = 1 then .tlbRefill else .ordinary

/-- The saved PLV that the scene restores. -/
def State.savedPlv (s : State) : BitVec 2 :=
  match s.scene with
  | .machineError => s.merrPplv
  | .tlbRefill => s.tlbrPplv
  | .ordinary => s.pplv

/-- CRMD as the scene restores it. -/
def restoredCrmd (s : State) : Word32 :=
  match s.scene with
  | .machineError =>
    crmdWithAccessTypes
      (crmdWithTranslation (crmdWithMode s.csr.crmd s.merrPplv s.merrPie s.merrPwe) s.merrPda s.merrPpg)
      s.merrPdatf s.merrPdatm
  | .tlbRefill => crmdWithTranslation (crmdWithMode s.csr.crmd s.tlbrPplv s.tlbrPie s.tlbrPwe) 0 1
  | .ordinary => crmdWithMode s.csr.crmd s.pplv s.pie s.pwe

/-- The address the scene returns to. -/
def returnTarget (s : State) : Word :=
  match s.scene with
  | .machineError => s.csrValue .merrera
  | .tlbRefill => s.csrValue .tlbrera &&& ~~~3
  | .ordinary => s.csrValue .era

/-- The return: CRMD restored, the scene's flag cleared, the pc at the target; the LLBit is cleared unless LLBCTL.KLO
is 1 (R140, G32). Every saved field is read before any is written. -/
def returnFrom (s : State) : State :=
  { s with
    csr :=
      { s.csr with
        crmd := restoredCrmd s
        merrctl := if s.scene = .machineError then setField s.csr.merrctl 0 0#1 else s.csr.merrctl
        tlbrera := if s.scene = .tlbRefill then setField s.csr.tlbrera 0 0#1 else s.csr.tlbrera }
    llbit := s.llbit && s.klo == 1
    pc := returnTarget s }

/-- Return from exception, refused where it would restore a PLV the core lacks (R17, R140, U7). -/
def returnFromException (s : State) : Result :=
  if plvLegal s.cfg s.savedPlv then .next (returnFrom s) else .refused .plvNotImplemented

/-! ### An instruction boundary (`70_reset_and_hazards.md` R233 lines 1 to 5) -/

/-- The environment sets the lines for this boundary (R233 line 1, R65). -/
def State.sample (s : State) : State :=
  match s.oracle with
  | [] => s
  | l :: ls => { s with lines := l, oracle := ls }

/-- Whether an interrupt is taken at this boundary (R190). -/
def State.takesInterrupt (s : State) : Bool := s.ie == 1 && s.pending != 0

/-- What a boundary leads to before anything is executed. -/
inductive Boundary where
  | trap (e : Exception) (info : TrapInfo)
  | refuse (r : Refusal)
  | word (w : Word32)
  deriving DecidableEq, Repr

/-- The order of events at a boundary, after the lines are set (R233 lines 2 to 5): an interrupt, the translation mode,
the alignment of the pc, the fetch. -/
def State.boundary (s : State) : Boundary :=
  if s.takesInterrupt then .trap .int ⟨none, 0⟩
  else if s.da = s.pg then .refuse .undefinedTranslationMode
  else if s.pg = 1 then .refuse .mappedTranslation
  else if getField s.pc 0 2 ≠ 0 then .trap .adef ⟨none, s.pc⟩
  else match fetchWord s s.pc with
    | some w => .word w
    | none => .refuse (.noProgramWord s.pc)

end Sys2Proof.Machine
end

