-- ==== Sys2Proof/Machine/CsrAccess.lean ====
section
/-! DEFINITION. The meanings of CSRRD, CSRWR and CSRXCHG (`40_csr_access.md`). -/

namespace Sys2Proof.Machine

/-- CSRRD rd, csr_num (R123): IPE unless PLV0; x[rd] <- csr_read(csr_num). -/
def execCsrrd (rd : Reg) (csr : CsrNum) (s : State) : Result :=
  privileged (.csrrd rd csr) s (csrToGr rd csr s)

/-- CSRWR rd, csr_num (R124): IPE unless PLV0; the writable bits of the CSR from x[rd], the old value into x[rd]. -/
def execCsrwr (rd : Reg) (csr : CsrNum) (s : State) : Result :=
  privileged (.csrwr rd csr) s (csrExchange rd csr (s.x rd) (BitVec.allOnes 64) s)

/-- CSRXCHG rd, rj, csr_num (R125): IPE unless PLV0; the same under the mask x[rj]. -/
def execCsrxchg (rd rj : Reg) (csr : CsrNum) (s : State) : Result :=
  privileged (.csrxchg rd rj csr) s (csrExchange rd csr (s.x rd) (s.x rj) s)

end Sys2Proof.Machine
end

