-- ==== Sys2Proof/Machine/ExceptionReturn.lean ====
section
/-! DEFINITION. The meaning of ERTN (`41_exception_return.md`). -/

namespace Sys2Proof.Machine

/-- ERTN (R140): IPE unless PLV0; return from the innermost scene. -/
def execErtn (s : State) : Result := privileged .ertn s (returnFromException s)

end Sys2Proof.Machine
end

