-- ==== Sys2Proof/Machine/SyscallBreak.lean ====
section
/-! DEFINITION. The meanings of SYSCALL and BREAK (`42_syscall_break.md`). -/

namespace Sys2Proof.Machine

/-- SYSCALL code (R150): raise SYS at every privilege level. The code reaches the handler in BADI only. -/
def execSyscall (code : BitVec 15) (s : State) : Result := raiseBy .sys (.syscall code) s

/-- BREAK code (R151): raise BRK at every privilege level. -/
def execBreak (code : BitVec 15) (s : State) : Result := raiseBy .brk (.brk code) s

end Sys2Proof.Machine
end

