-- ==== Sys2Proof/Machine/Dispatch.lean ====
section
/-! DEFINITION. One arm per instruction. -/

namespace Sys2Proof.Machine

/-- What an instruction does. -/
def exec (i : Instr) (s : State) : Host.Outcome State Fault Refusal :=
  match i with
  | .csrrd rd csr => Sys2Proof.Machine.execCsrrd rd csr s
  | .csrwr rd csr => Sys2Proof.Machine.execCsrwr rd csr s
  | .csrxchg rd rj csr => Sys2Proof.Machine.execCsrxchg rd rj csr s
  | .ertn => Sys2Proof.Machine.execErtn s
  | .syscall code => Sys2Proof.Machine.execSyscall code s
  | .brk code => Sys2Proof.Machine.execBreak code s

end Sys2Proof.Machine
end

