-- ==== Sys2Proof/Machine/Step.lean ====
section
/-! DEFINITION. One step of the machine (`70_reset_and_hazards.md` R233). -/

namespace Sys2Proof.Machine

/-- What follows a boundary: trap entry, a refusal, or the decoded instruction (R233 lines 2 to 9). -/
def afterBoundary (s : State) : Boundary → Host.Outcome State Fault Refusal
  | .trap e info => .next (raise e info s)
  | .refuse r => .refused r
  | .word w =>
    match decode w with
    | .ok i => exec i s
    | .error e => .refused (.undecoded e)

/-- One step: the environment sets the lines, then R233 from line 2. -/
def step (s : State) : Host.Outcome State Fault Refusal := afterBoundary s.sample s.sample.boundary

/-- The state with an instruction stored where `step` fetches its next one. -/
def State.withFetchWord (s : State) (nbits w : Nat) : State :=
  placeWord s s.pc (BitVec.ofNat 32 (w % 2 ^ nbits))

end Sys2Proof.Machine
end

