-- ==== Sys2Proof/Safety.lean ====
section
/-! DEFINITION. What claims speak of: the invariant of the machine, what a step leaves unchanged, and the end of a run. -/

namespace Sys2Proof.Machine

/-- The invariant every step keeps. -/
structure Inv (s : State) : Prop where
  /-- memory is in canonical form -/
  memory : Memory.wf s.mem = true
  /-- the storage behind x[0] is 0 (`10_state.md` R11) -/
  zeroRegister : s.gpr[0] = 0
  /-- general registers hold GRLEN bits (R10) -/
  gprWidth : ∀ i : Fin 32, s.gpr[i] &&& ~~~grMask s.cfg = 0
  /-- the pc holds GRLEN bits (R12) -/
  pcWidth : s.pc &&& ~~~grMask s.cfg = 0
  /-- reserved, R0 and out-of-width bits of every CSR are 0 (R16) -/
  reservedBits : ∀ r : Csr, s.csr.get r &&& ~~~r.fieldMask s.cfg = 0
  /-- CRMD.PLV is a level the core has (R17, R209) -/
  legalPlv : plvLegal s.cfg s.plv = true
  /-- the machine error scene is never entered (R53) -/
  noMachineError : s.isMerr = 0
  /-- MISC stays 0 (R20) -/
  miscZero : s.csr.misc = 0

/-- What `t` keeps of `s`: every general register outside `regs`, the stored contents of every CSR outside `csrs`, the
interrupt lines and what is still to come on them, the configuration, and every byte of memory. -/
structure Keeps (s t : State) (regs : List Reg) (csrs : List Csr) : Prop where
  gpr : ∀ i : Reg, i ∉ regs → t.x i = s.x i
  csr : ∀ r : Csr, r ∉ csrs → t.csr.get r = s.csr.get r
  lines : t.lines = s.lines
  oracle : t.oracle = s.oracle
  cfg : t.cfg = s.cfg
  memory : ∀ a : Nat, Memory.read t.mem a = Memory.read s.mem a

/-- The CSRs that the entry of an ordinary exception may write (`60_exceptions.md` R195). -/
def ordinaryEntryCsrs : List Csr := [.prmd, .crmd, .estat, .era, .badv, .badi]

/-- What the entry of an ordinary exception with these codes, raised at `s.pc`, makes of the state, BADV, BADI, the
entry address and the count of free values apart (R195, R197): the mode saved in PRMD; PLV, IE and WE 0 and the rest of
CRMD kept; the codes in ESTAT and its interrupt bits kept; ERA the pc; nothing else changed. -/
structure OrdinaryEntry (s t : State) (ecode : BitVec 6) (esub : BitVec 9) : Prop where
  pplv : t.pplv = s.plv
  pie : t.pie = s.ie
  pwe : t.pwe = s.we
  plv : t.plv = 0
  ie : t.ie = 0
  we : t.we = 0
  da : t.da = s.da
  pg : t.pg = s.pg
  datf : t.datf = s.datf
  datm : t.datm = s.datm
  ecode : t.ecode = ecode
  esubcode : t.esubcode = esub
  interrupts : t.is = s.is
  era : t.csr.era = s.pc
  llbit : t.llbit = s.llbit
  keeps : Keeps s t [] ordinaryEntryCsrs

/-- The bits of a CSR that software can write, bit by bit, from the field tables of `10_state.md` (the letters RW and
W1 of R17 to R58; R67 for the registers whose fields are unknown). Bits at and above GRLEN do not exist. -/
def softwareWritable (c : Config) (r : Csr) (b : Nat) : Bool :=
  match r with
  | .crmd => decide (b ≤ 8) || (decide (b = 9) && c.watch)
  | .prmd => decide (b ≤ 2) || (decide (b = 3) && c.watch)
  | .ecfg => decide (b ≤ 12) || (decide (16 ≤ b) && decide (b ≤ 18))
  | .estat => decide (b ≤ 1)
  | .badi => false
  | .eentry => decide (c.eentryZeroBits ≤ b) && decide (b < c.grlen)
  | .tlbrentry => decide (12 ≤ b) && decide (b < c.grlen)
  | .tlbrera => decide (b ≠ 1) && decide (b < c.grlen)
  | .tlbrprmd => decide (b ≤ 2) || (decide (b = 4) && c.watch)
  | .merrctl =>
    (decide (2 ≤ b) && decide (b ≤ 4)) || (decide (b = 6) && c.watch) || (decide (7 ≤ b) && decide (b ≤ 12))
  | r => if r.wide then decide (b < c.grlen) else decide (b < 32)

/-- The reserved and read-as-zero bits of the CSRs whose fields the spec gives (R17 to R26, R45, R47, R52, R53). -/
def readsZero (c : Config) (r : Csr) (b : Nat) : Bool :=
  match r with
  | .crmd => decide (10 ≤ b) || (decide (b = 9) && !c.watch)
  | .prmd => decide (4 ≤ b) || (decide (b = 3) && !c.watch)
  | .ecfg => (decide (13 ≤ b) && decide (b ≤ 15)) || decide (19 ≤ b)
  | .estat => (decide (13 ≤ b) && decide (b ≤ 15)) || decide (31 ≤ b)
  | .eentry => decide (b < c.eentryZeroBits)
  | .tlbrentry => decide (b < 12)
  | .tlbrera => decide (b = 1)
  | .tlbrprmd => decide (b = 3) || decide (5 ≤ b) || (decide (b = 4) && !c.watch)
  | .merrctl =>
    decide (b = 5) || (decide (13 ≤ b) && decide (b ≤ 15)) || decide (24 ≤ b) || (decide (b = 6) && !c.watch)
  | _ => false

/-- A CSR access instruction may name the register: its fields are known, or the policy makes it plain storage (R67). -/
def accessible (c : Config) (r : Csr) : Prop := r.fieldsUnknown = true → c.opaquePolicy = .plainStorage

/-- The single registers of the inventory as the table of `10_state.md` R15 prints them: number, register, and whether
its width column says GR, here in two pieces. -/
def inventoryLow : List (CsrNum × Csr × Bool) :=
  [(0x0, .crmd, false), (0x1, .prmd, false), (0x2, .euen, false), (0x3, .misc, false), (0x4, .ecfg, false),
   (0x5, .estat, false), (0x6, .era, true), (0x7, .badv, true), (0x8, .badi, false), (0xC, .eentry, true),
   (0x10, .tlbidx, false), (0x11, .tlbehi, true), (0x12, .tlbelo0, true), (0x13, .tlbelo1, true),
   (0x18, .asid, false), (0x19, .pgdl, true), (0x1A, .pgdh, true), (0x1B, .pgd, true), (0x1C, .pwcl, false),
   (0x1D, .pwch, false), (0x1E, .stlbps, false), (0x40, .tid, false), (0x41, .tcfg, true), (0x42, .tval, true),
   (0x43, .cntc, true), (0x44, .ticlr, false), (0x60, .llbctl, false)]

/-- The rest of the table of R15. -/
def inventoryHigh : List (CsrNum × Csr × Bool) :=
  [(0x88, .tlbrentry, true), (0x89, .tlbrbadv, true), (0x8A, .tlbrera, true), (0x8B, .tlbrsave, true),
   (0x8C, .tlbrelo0, true), (0x8D, .tlbrelo1, true), (0x8E, .tlbrehi, true), (0x8F, .tlbrprmd, false),
   (0x90, .merrctl, false), (0x91, .merrinfo1, true), (0x92, .merrinfo2, true), (0x93, .merrentry, true),
   (0x94, .merrera, true), (0x95, .merrsave, true), (0x180, .dmw0, true), (0x181, .dmw1, true),
   (0x182, .dmw2, true), (0x183, .dmw3, true), (0x500, .dbg, false), (0x501, .dera, true), (0x502, .dsave, true)]

/-- The CSRs to which reset gives a value, in whole or in some bits (`10_state.md` R71). -/
def resetCsrs : List Csr :=
  [.crmd, .euen, .misc, .ecfg, .estat, .tlbrera, .merrctl, .tcfg, .llbctl, .dmw0, .dmw1, .dmw2, .dmw3]

/-- A value that may be stored: CRMD gets a PLV the core has (R17, U7) and MISC gets 0 (R20, U13). -/
def storable (c : Config) (r : Csr) (v : Word) : Prop :=
  (r = .crmd → plvLegal c (getField v 0 2) = true) ∧ (r = .misc → v.setWidth 32 = 0#32)

/-- A boundary at which the word `w` is fetched: no interrupt is taken, the core is in direct translation mode, the pc
is aligned and a program word is there (`70_reset_and_hazards.md` R233 lines 2 to 5). -/
structure Fetches (s : State) (w : Word32) : Prop where
  noInterrupt : s.ie = 0 ∨ s.pending = 0
  direct : s.da = 1
  unmapped : s.pg = 0
  aligned : getField s.pc 0 2 = 0
  word : fetchWord s s.pc = some w

/-- The run is over: the pc is END_PC at the start of a step (`70_reset_and_hazards.md` R238). -/
def State.ended (s : State) : Bool := s.cfg.endPc == some s.pc

/-- At most `k` steps, ending early in the end state of R238, a fault or a refusal. -/
def runToEnd : Nat → State → Result
  | 0, s => .next s
  | k + 1, s =>
    if s.ended then .next s
    else match step s with
      | .next t => runToEnd k t
      | .fault f => .fault f
      | .refused r => .refused r

end Sys2Proof.Machine
end

