-- ==== Sys2Proof/Certificates/Slice0/Obligations.lean ====
section
/-! DEFINITION. The statements for the provers. "D<n>", "G<n>" and "U<n>" are the spec's own decisions, recollections and
open points (`92_eei_decisions.md`, `93_implementation_defined.md`); "log <n>" is `notes/assumptions/<n>.md`. A
docstring says where a statement rests on one of them. -/

open Sys2Proof Sys2Proof.Machine

/-! ### Encoding (`30_encoding.md`) -/

/-- Decoding the encoding of a well-formed instruction gives it back, with every operand at every value. The encodings
are the spec's recollection (G27, G28; log 37). -/
def Obligations.DecodeEncodeRoundTrip : Prop :=
  ∀ i : Instr, i.wellFormed = true → decode (encode i) = .ok i

/-- A word that decodes is the encoding of what it decodes to, and that is well formed: no word is read as an
instruction it does not spell (G27, G28; log 37). -/
def Obligations.EncodeDecodeRoundTrip : Prop :=
  ∀ (w : Word32) (i : Instr), decode w = .ok i → i.wellFormed = true ∧ encode i = w

/-- Inside the CSR format every word is CSRRD, CSRWR or CSRXCHG with the fields it spells, and a word that differs from
ERTN's in bits 9:0 only is no instruction (R108; G27). -/
def Obligations.CsrFormatHasNoReservedWord : Prop :=
  (∀ (n : CsrNum) (rj rd : Reg),
    decode (0x04#8 ++ n ++ rj ++ rd) =
      .ok (if rj = 0 then .csrrd rd n else if rj = 1 then .csrwr rd n else .csrxchg rd rj n)) ∧
  (∀ w : Word32, w.extractLsb' 10 22 = (0x06483800#32).extractLsb' 10 22 → w ≠ 0x06483800 →
    ∃ e, decode w = .error e)

/-- A word of `95_test_vectors.md` 2.1 for each of the six instructions decodes to the instruction it stands for. -/
def Obligations.DecodeKnownWords : Prop :=
  decode 0x0400000C = .ok (.csrrd 12 0x0) ∧ decode 0x0400C024 = .ok (.csrwr 4 0x30) ∧
  decode 0x04060C44 = .ok (.csrxchg 4 2 0x183) ∧ decode 0x06483800 = .ok .ertn ∧
  decode 0x002B7FFF = .ok (.syscall 0x7FFF) ∧ decode 0x002A0005 = .ok (.brk 5)

/-- Every word of a row of G30 is refused by the name of that row: the rows overlap neither each other nor the six
instructions (log 38). -/
def Obligations.OutOfScopeWordsRefusedByName : Prop :=
  ∀ row ∈ outOfScopeRows, ∀ w : Word32, w &&& row.1 = row.2.1 → decode w = .error (.outOfScope row.2.2)

/-- The byte at the lowest address holds bits 7:0 of the word, and so on upward (R82: D25, G25; log 33). -/
def Obligations.FetchIsLittleEndian : Prop :=
  ∀ (s : State) (va : Word) (b0 b1 b2 b3 : Byte),
    Memory.read s.mem (physAddr s.cfg va) = some b0 → Memory.read s.mem (physAddr s.cfg va + 1) = some b1 →
    Memory.read s.mem (physAddr s.cfg va + 2) = some b2 → Memory.read s.mem (physAddr s.cfg va + 3) = some b3 →
    ∃ w, fetchWord s va = some w ∧ getField w 0 8 = b0 ∧ getField w 8 8 = b1 ∧ getField w 16 8 = b2 ∧
      getField w 24 8 = b3

/-- A placed program word is the word fetched at its address, and every byte outside its four reads as before (R84,
R82: D25; log 33, 35). -/
def Obligations.FetchReadsPlacedWord : Prop :=
  ∀ (s : State) (va : Word) (w : Word32),
    fetchWord (placeWord s va w) va = some w ∧
    ∀ a : Nat, (a < physAddr s.cfg va ∨ physAddr s.cfg va + 4 ≤ a) →
      Memory.read (placeWord s va w).mem a = Memory.read s.mem a

/-! ### The step (`70_reset_and_hazards.md` R233) -/

/-- When the word fetched at the pc decodes to `i`, the step is `i` executed in the state whose lines the environment
has set (R233 lines 1 and 5 to 9). That state differs from `s` in two fields: the lines have the first level of the
oracle, or keep theirs once it is used up, and the oracle is one level shorter. That the environment's input is such a
list is the model's choice (log 21). -/
def Obligations.StepRunsDecodedInstruction : Prop :=
  ∀ (s : State) (w : Word32) (i : Instr), Fetches s.sample w → decode w = .ok i →
    step s = exec i s.sample ∧
    s.sample = { s with lines := s.oracle.headD s.lines, oracle := s.oracle.tail }

/-- A word that matches no row is refused and raises nothing, INE least of all (R107: D42; log 38). -/
def Obligations.StepRefusesWordWithoutRow : Prop :=
  ∀ (s : State) (w : Word32) (e : DecodeError), Fetches s.sample w → decode w = .error e →
    step s = .refused (.undecoded e)

/-- Where no program word is placed the step is refused (R233 line 5; log 35). -/
def Obligations.StepStopsWithoutProgramWord : Prop :=
  ∀ s : State, s.sample.takesInterrupt = false → s.da = 1 → s.pg = 0 → getField s.pc 0 2 = 0 →
    fetchWord s s.pc = none → step s = .refused (.noProgramWord s.pc)

/-- Outside direct translation mode nothing is fetched: DA = PG is no mode (U5) and DA = 0, PG = 1 is not in the spec
(U6) (R17, R88, R233 line 3: D27; log 32). -/
def Obligations.StepRefusesOutsideDirectMode : Prop :=
  ∀ s : State, s.sample.takesInterrupt = false →
    (s.da = s.pg → step s = .refused .undefinedTranslationMode) ∧
    (s.da = 0 ∧ s.pg = 1 → step s = .refused .mappedTranslation)

/-- An interrupt is taken exactly when CRMD.IE is 1 and some source is both asserted and locally enabled (R190: at
once, D21; log 20). -/
def Obligations.InterruptTakenExactlyWhenEnabled : Prop :=
  ∀ s : State, s.takesInterrupt = true ↔
    s.ie = 1 ∧ ∃ i, i < 13 ∧ s.is.getLsbD i = true ∧ s.lie.getLsbD i = true

/-- Taking an interrupt: before anything is fetched and whatever the pc or the translation mode, the ordinary entry with
Ecode 0, ERA the pc not executed, BADV and BADI kept, at EENTRY in flat mode and at code 64 + i of the highest-numbered
pending enabled interrupt i in vectored mode. The interrupt stays pending (R190, R191, R192, R193, R195: D16, D19, D20,
D21, G16; log 17, 19, 20, 23). -/
def Obligations.StepTakesInterrupt : Prop :=
  ∀ (s : State) (i : Nat), i < 13 → s.ie = 1 →
    s.sample.is.getLsbD i = true → s.lie.getLsbD i = true →
    (∀ j, i < j → j < 13 → s.sample.is.getLsbD j = false ∨ s.lie.getLsbD j = false) →
    ∃ t, step s = .next t ∧ OrdinaryEntry s.sample t 0 0 ∧ t.csr.badv = s.csr.badv ∧ t.csr.badi = s.csr.badi ∧
      t.draws = s.draws ∧ t.pc = s.entry (64 + i) ∧ t.pending = s.sample.pending

/-- A pc that is not a multiple of 4 raises ADEF at the fetch: BADV and ERA are the pc, BADI a free value (R85, R168,
R25: D26, D34, G26; log 25, 34). -/
def Obligations.StepRaisesAdefOnMisalignedPc : Prop :=
  ∀ s : State, s.sample.takesInterrupt = false → s.da = 1 → s.pg = 0 → getField s.pc 0 2 ≠ 0 →
    ∃ t, step s = .next t ∧ OrdinaryEntry s.sample t 0x8 0 ∧ t.csr.badv = s.pc ∧
      t.csr.badi = Config.fetchBadi s.draws ∧ t.draws = s.draws + 1 ∧ t.pc = s.entry 0x8

/-! ### The CSR access instructions (`40_csr_access.md`) -/

/-- The inventory of R15, written out: each of the 48 numbers addresses the register of its row, whose width class is
the one its row prints; 0x30 + n addresses SAVEn, GRLEN bits wide, for n below NSAVE; no other number addresses a
register (R14, R15, R38: D10, D31, G7, G33; log 12, 42). -/
def Obligations.CsrNumbersAndWidths : Prop :=
  ∀ c : Config,
    (∀ row ∈ inventoryLow ++ inventoryHigh, csrOfNum c row.1 = some row.2.1 ∧ row.2.1.wide = row.2.2) ∧
    (∀ n : Fin 16, n.val < c.nsave →
      csrOfNum c (BitVec.ofNat 14 (0x30 + n.val)) = some (.save n) ∧ Csr.wide (.save n) = true) ∧
    (∀ (n : CsrNum) (r : Csr), csrOfNum c n = some r →
      (∃ w, (n, r, w) ∈ inventoryLow ++ inventoryHigh) ∨
      ∃ k : Fin 16, k.val < c.nsave ∧ n = BitVec.ofNat 14 (0x30 + k.val) ∧ r = .save k)

/-- CSRRD at PLV0: the value of the CSR into x[rd] (register 0 stays 0), the pc advanced, nothing else changed (R123,
R121; PLV0: D5; log 9). -/
def Obligations.CsrrdReadsCsr : Prop :=
  ∀ (s : State) (rd : Reg) (n : CsrNum) (r : Csr),
    s.plv = 0 → csrOfNum s.cfg n = some r → accessible s.cfg r → s.pc.toNat + 4 < 2 ^ s.cfg.grlen →
    ∃ t, exec (.csrrd rd n) s = .next t ∧ t.pc = s.pc + 4 ∧ t.x rd = (if rd = 0 then 0 else s.csrForGr r) ∧
      t.llbit = s.llbit ∧ t.draws = s.draws ∧ Keeps s t [rd] []

/-- CSRWR at PLV0: exactly the software-writable bits of the CSR come from x[rd] (0 for register 0), x[rd] gets the old
value, the pc advances, nothing else changes (R124, R122, R16; that x[rd] gets the old value: D4; log 8). -/
def Obligations.CsrwrWritesWritableBits : Prop :=
  ∀ (s : State) (rd : Reg) (n : CsrNum) (r : Csr),
    s.plv = 0 → csrOfNum s.cfg n = some r → accessible s.cfg r → storable s.cfg r (s.x rd) →
    s.pc.toNat + 4 < 2 ^ s.cfg.grlen →
    ∃ t, exec (.csrwr rd n) s = .next t ∧ t.pc = s.pc + 4 ∧ t.x rd = (if rd = 0 then 0 else s.csrForGr r) ∧
      (∀ b, (t.csr.get r).getLsbD b =
        if softwareWritable s.cfg r b then (s.x rd).getLsbD b else (s.csr.get r).getLsbD b) ∧
      t.llbit = s.llbit ∧ t.draws = s.draws ∧ Keeps s t [rd] [r]

/-- CSRXCHG at PLV0: exactly the software-writable bits that are 1 in the mask x[rj] come from x[rd], both read before
x[rd] gets the old value; the pc advances, nothing else changes (R125, R122, R16; PLV0: D5; log 9). It speaks of rj 0 and
1 too, which are no CSRXCHG: there the mask x[rj] is the model's choice (log 44). -/
def Obligations.CsrxchgWritesMaskedBits : Prop :=
  ∀ (s : State) (rd rj : Reg) (n : CsrNum) (r : Csr),
    s.plv = 0 → csrOfNum s.cfg n = some r → accessible s.cfg r →
    storable s.cfg r ((s.csr.get r &&& ~~~s.x rj) ||| (s.x rd &&& s.x rj)) →
    s.pc.toNat + 4 < 2 ^ s.cfg.grlen →
    ∃ t, exec (.csrxchg rd rj n) s = .next t ∧ t.pc = s.pc + 4 ∧
      t.x rd = (if rd = 0 then 0 else s.csrForGr r) ∧
      (∀ b, (t.csr.get r).getLsbD b =
        if softwareWritable s.cfg r b && (s.x rj).getLsbD b then (s.x rd).getLsbD b else (s.csr.get r).getLsbD b) ∧
      t.llbit = s.llbit ∧ t.draws = s.draws ∧ Keeps s t [rd] [r]

/-- A CSR number outside the inventory: the three instructions complete, x[rd] gets a free value, one that is counted,
and no CSR changes (R63: D6, U1, U2; log 10). That a CSRXCHG with rj 0 or 1, which is no instruction, does the same is
the model's choice (log 44). -/
def Obligations.UndefinedCsrReadsFreeValue : Prop :=
  ∀ (s : State) (rd rj : Reg) (n : CsrNum) (i : Instr),
    s.plv = 0 → (∀ r : Csr, r.num = n.toNat → r.implemented s.cfg = false) → s.pc.toNat + 4 < 2 ^ s.cfg.grlen →
    i = .csrrd rd n ∨ i = .csrwr rd n ∨ i = .csrxchg rd rj n →
    ∃ t, exec i s = .next t ∧ t.pc = s.pc + 4 ∧
      t.x rd = (if rd = 0 then 0 else narrow s.cfg (Config.undefinedCsr s.draws)) ∧ t.draws = s.draws + 1 ∧
      t.llbit = s.llbit ∧ Keeps s t [rd] []

/-- What CSRRD puts into x[rd] above bit 31 of a 32-bit CSR: copies of bit 31 under LA64, 0 under LA32; below, the bits
of the CSR (R14; the width classes: D10, G7; log 12). -/
def Obligations.CsrrdSignExtends : Prop :=
  ∀ (s t : State) (rd : Reg) (n : CsrNum) (r : Csr) (b : Nat),
    s.plv = 0 → rd ≠ 0 → csrOfNum s.cfg n = some r → r.wide = false → exec (.csrrd rd n) s = .next t →
    (b < 32 → (t.x rd).getLsbD b = (s.csrValue r).getLsbD b) ∧
    (32 ≤ b → b < 64 →
      (t.x rd).getLsbD b = match s.cfg.arch with
        | .la32 => false
        | .la64 => (s.csrValue r).getLsbD 31)

/-- Reserved and hardwired bits read 0: no CSRRD shows a 1 in one of them, whatever is stored (R16, R26, R121: D8, D15;
log 11, 15). -/
def Obligations.CsrrdReservedBitsReadZero : Prop :=
  ∀ (s t : State) (rd : Reg) (n : CsrNum) (r : Csr) (b : Nat),
    s.plv = 0 → csrOfNum s.cfg n = some r → exec (.csrrd rd n) s = .next t → readsZero s.cfg r b = true →
    (t.x rd).getLsbD b = false

/-- CSRRD of ESTAT: bits 12:2 are the present level of the 11 lines, bits 1:0, 21:16 and 30:22 what is stored (R22, R65,
R121; which line is which bit: D23; log 19, 21). -/
def Obligations.CsrrdOfEstatShowsLines : Prop :=
  ∀ (s : State) (rd : Reg), s.plv = 0 → rd ≠ 0 → s.pc.toNat + 4 < 2 ^ s.cfg.grlen →
    ∃ t, exec (.csrrd rd 0x5) s = .next t ∧ getField (t.x rd) 2 11 = s.lines ∧
      getField (t.x rd) 0 2 = getField s.csr.estat 0 2 ∧ getField (t.x rd) 16 6 = s.ecode ∧
      getField (t.x rd) 22 9 = s.esubcode

/-- A full write and then a read of a register without hardware bits gives the writable bits of the written value and
the readable ones of the old contents: the law of R128 (log 8). -/
def Obligations.CsrwrThenCsrrdReadsBack : Prop :=
  ∀ (s t u : State) (rd rd' : Reg) (n : CsrNum) (r : Csr),
    csrOfNum s.cfg n = some r → r ≠ .estat → s.plv = 0 → t.plv = 0 → rd' ≠ 0 →
    exec (.csrwr rd n) s = .next t → exec (.csrrd rd' n) t = .next u →
    ∀ b, b < 32 ∨ (r.wide = true ∧ b < s.cfg.grlen) →
      (u.x rd').getLsbD b =
        if softwareWritable s.cfg r b then (s.x rd).getLsbD b else (s.csrValue r).getLsbD b

/-- A CSRXCHG followed by a CSRXCHG of the returned old value under the same mask restores the register: the law of
R128. That rj 0 and 1, which are no CSRXCHG, obey it too rests on the model's choice of the mask there (log 44). -/
def Obligations.CsrxchgTwiceRestores : Prop :=
  ∀ (s t u : State) (rd rj : Reg) (n : CsrNum) (r : Csr),
    csrOfNum s.cfg n = some r → s.plv = 0 → t.plv = 0 → rd ≠ 0 → rd ≠ rj →
    exec (.csrxchg rd rj n) s = .next t → exec (.csrxchg rd rj n) t = .next u →
    u.csr.get r = s.csr.get r

/-- The idiom `csrxchg rd, rd, n`, for every rd that may stand in it, is an ordinary CSRXCHG: it sets the bits of the CSR
that are 1 in the register, as far as they are software-writable, clears none, and leaves the old value in x[rd] (R111). -/
def Obligations.CsrxchgIdiomSetsBits : Prop :=
  ∀ (s : State) (rd : Reg) (n : CsrNum) (r : Csr),
    (Instr.csrxchg rd rd n).wellFormed = true →
    s.plv = 0 → csrOfNum s.cfg n = some r → accessible s.cfg r → storable s.cfg r (s.csr.get r ||| s.x rd) →
    s.pc.toNat + 4 < 2 ^ s.cfg.grlen →
    ∃ t, exec (.csrxchg rd rd n) s = .next t ∧ t.x rd = s.csrForGr r ∧
      ∀ b, (t.csr.get r).getLsbD b =
        ((s.csr.get r).getLsbD b || (softwareWritable s.cfg r b && (s.x rd).getLsbD b))

/-- A write under a mask of zeros is the identity: the law of R128. -/
def Obligations.CsrWriteUnderZeroMaskIsIdentity : Prop :=
  ∀ (s : State) (n : CsrNum) (v : Word), Inv s → (∀ r, csrOfNum s.cfg n = some r → accessible s.cfg r) →
    csrWrite n v 0 s = .ok s

/-- A CSR write governs the very next boundary, whichever CSR a CSRWR or CSRXCHG has written and whatever level the
lines then have: if it leaves IE at 1 with an enabled interrupt pending, the next step takes the interrupt, with ERA the
address after the write; else, if it leaves DA = PG, or DA = 0 and PG = 1, the next step is refused; and if it leaves PLV
other than 0, the privileged instruction fetched next raises IPE (R95, R234, R190, R233: D29, D21, D5; log 9, 20, 36).
With rj 0 or 1 it rests on the model's choice of the mask too (log 44). -/
def Obligations.CsrWriteGovernsNextBoundary : Prop :=
  ∀ (s t : State) (i : Instr) (rd rj : Reg) (n : CsrNum), s.plv = 0 → i = .csrwr rd n ∨ i = .csrxchg rd rj n →
    exec i s = .next t →
    (t.ie = 1 → t.sample.pending ≠ 0 →
      ∃ u, step t = .next u ∧ u.csr.era = s.pc + 4 ∧ u.ecode = 0 ∧ u.pie = 1 ∧ u.ie = 0) ∧
    (t.sample.takesInterrupt = false →
      (t.da = t.pg → step t = .refused .undefinedTranslationMode) ∧
      (t.da = 0 ∧ t.pg = 1 → step t = .refused .mappedTranslation)) ∧
    (∀ (w : Word32) (k : Instr) (rd' rj' : Reg) (n' : CsrNum), t.plv ≠ 0 → Fetches t.sample w → decode w = .ok k →
      k = .csrrd rd' n' ∨ k = .csrwr rd' n' ∨ k = .csrxchg rd' rj' n' ∨ k = .ertn →
      ∃ u, step t = .next u ∧ u.csr.era = s.pc + 4 ∧ u.ecode = 0xE ∧ u.pplv = t.plv ∧ u.plv = 0)

/-- Under CSR_OPAQUE_POLICY = refuse an access to a register with unknown fields is refused by that register's name
(R67: D7, U3; log 2), and so is the model's CSRXCHG with rj 0 or 1 (log 44). -/
def Obligations.UnknownFieldsRefusedByPolicy : Prop :=
  ∀ (s : State) (rd rj : Reg) (n : CsrNum) (r : Csr) (i : Instr),
    s.plv = 0 → csrOfNum s.cfg n = some r → r.fieldsUnknown = true → s.cfg.opaquePolicy = .refuse →
    i = .csrrd rd n ∨ i = .csrwr rd n ∨ i = .csrxchg rd rj n →
    exec i s = .refused (.unknownFields r)

/-- On a core with PLV0 and PLV3 only, a CSRWR or a CSRXCHG that would put 1 or 2 into CRMD.PLV and an ERTN that would
restore 1 or 2 are refused (R17, R140: D32, U7; log 30; with rj 0 or 1: log 44). -/
def Obligations.PlvNotImplementedRefused : Prop :=
  ∀ s : State, s.plv = 0 → s.cfg.plvSet = .zeroAndThree →
    (∀ rd, getField (s.x rd) 0 2 = 1 ∨ getField (s.x rd) 0 2 = 2 →
      exec (.csrwr rd 0x0) s = .refused .plvNotImplemented) ∧
    (∀ rd rj (v : BitVec 2),
      v = getField ((s.csr.get .crmd &&& ~~~s.x rj) ||| (s.x rd &&& s.x rj)) 0 2 → v = 1 ∨ v = 2 →
      exec (.csrxchg rd rj 0x0) s = .refused .plvNotImplemented) ∧
    (s.savedPlv = 1 ∨ s.savedPlv = 2 → exec .ertn s = .refused .plvNotImplemented)

/-- A CSRWR or a CSRXCHG that would make MISC non-zero is refused (R20: D7, U13; log 9; with rj 0 or 1: log 44). -/
def Obligations.MiscRelaxationRefused : Prop :=
  ∀ (s : State) (rd rj : Reg), s.plv = 0 → s.cfg.opaquePolicy = .plainStorage →
    ((s.x rd).setWidth 32 ≠ 0#32 → exec (.csrwr rd 0x3) s = .refused .miscRelaxation) ∧
    (((s.csr.get .misc &&& ~~~s.x rj) ||| (s.x rd &&& s.x rj)).setWidth 32 ≠ 0#32 →
      exec (.csrxchg rd rj 0x3) s = .refused .miscRelaxation)

/-- A CSRRD, CSRWR or CSRXCHG that could else complete is refused where pc + 4 would pass the top of the address space
(R12: D3, U11; log 7; with rj 0 or 1: log 44). -/
def Obligations.PcPastTopRefused : Prop :=
  ∀ (s : State) (rd rj : Reg) (n : CsrNum), s.plv = 0 → (∀ r, csrOfNum s.cfg n = some r → accessible s.cfg r) →
    2 ^ s.cfg.grlen ≤ s.pc.toNat + 4 →
    exec (.csrrd rd n) s = .refused .pcPastTop ∧
    ((∀ r, csrOfNum s.cfg n = some r → storable s.cfg r (s.x rd)) →
      exec (.csrwr rd n) s = .refused .pcPastTop) ∧
    ((∀ r, csrOfNum s.cfg n = some r → storable s.cfg r ((s.csr.get r &&& ~~~s.x rj) ||| (s.x rd &&& s.x rj))) →
      exec (.csrxchg rd rj n) s = .refused .pcPastTop)

/-- At PLV1, PLV2 and PLV3 alike the four privileged instructions raise IPE and do nothing else: Ecode 0xE, BADI the
instruction's word, BADV kept (R120, R140, R175, R209: D5, D32, G5; log 9, 30). That the term CSRXCHG with rj 0 or 1,
which is no instruction, raises it too is the model's choice (log 44). -/
def Obligations.PrivilegedInstructionsRaiseIpe : Prop :=
  ∀ (s : State) (rd rj : Reg) (n : CsrNum) (i : Instr), s.plv ≠ 0 →
    i = .csrrd rd n ∨ i = .csrwr rd n ∨ i = .csrxchg rd rj n ∨ i = .ertn →
    ∃ t, exec i s = .next t ∧ OrdinaryEntry s t 0xE 0 ∧ t.csr.badi = encode i ∧ t.csr.badv = s.csr.badv ∧
      t.draws = s.draws ∧ t.pc = s.entry 0xE

/-! ### ERTN (`41_exception_return.md`) -/

/-- ERTN restores PLV, IE and WE from the saved-mode register of the innermost scene (machine error first, then TLB
refill, then ordinary) and jumps to that scene's return address (R201). -/
def Obligations.ErtnRestoresInnermostScene : Prop :=
  ∀ s : State, s.plv = 0 → plvLegal s.cfg s.savedPlv = true →
    ∃ t, exec .ertn s = .next t ∧
      (s.isMerr = 1 → t.plv = s.merrPplv ∧ t.ie = s.merrPie ∧ t.we = s.merrPwe ∧
        t.pc = narrow s.cfg s.csr.merrera) ∧
      (s.isMerr = 0 → s.isTlbr = 1 → t.plv = s.tlbrPplv ∧ t.ie = s.tlbrPie ∧ t.we = s.tlbrPwe ∧
        t.pc = narrow s.cfg s.csr.tlbrera &&& ~~~3) ∧
      (s.isMerr = 0 → s.isTlbr = 0 → t.plv = s.pplv ∧ t.ie = s.pie ∧ t.we = s.pwe ∧ t.pc = narrow s.cfg s.csr.era)

/-- What else ERTN writes: the translation fields and the scene's flag in the two special scenes, nothing else of CRMD
in the ordinary one, and the LLBit, which stays only under LLBCTL.KLO (R140: D33, G11, G12, G32; log 28, 29). -/
def Obligations.ErtnSceneEffects : Prop :=
  ∀ s : State, s.plv = 0 → plvLegal s.cfg s.savedPlv = true →
    ∃ t, exec .ertn s = .next t ∧ Keeps s t [] [.crmd, .merrctl, .tlbrera] ∧ t.draws = s.draws ∧
      t.llbit = (s.llbit && s.klo == 1) ∧
      (s.isMerr = 1 → t.da = s.merrPda ∧ t.pg = s.merrPpg ∧ t.datf = s.merrPdatf ∧ t.datm = s.merrPdatm ∧
        t.isMerr = 0 ∧ getField t.csr.merrctl 1 31 = getField s.csr.merrctl 1 31 ∧
        t.csr.tlbrera = s.csr.tlbrera) ∧
      (s.isMerr = 0 → s.isTlbr = 1 → t.da = 0 ∧ t.pg = 1 ∧ t.datf = s.datf ∧ t.datm = s.datm ∧ t.isTlbr = 0 ∧
        getField t.csr.tlbrera 1 63 = getField s.csr.tlbrera 1 63 ∧ t.csr.merrctl = s.csr.merrctl) ∧
      (s.isMerr = 0 → s.isTlbr = 0 → t.da = s.da ∧ t.pg = s.pg ∧ t.datf = s.datf ∧ t.datm = s.datm ∧
        t.csr.merrctl = s.csr.merrctl ∧ t.csr.tlbrera = s.csr.tlbrera)

/-- ERTN undoes the entry of any ordinary exception taken outside the two special scenes: the mode, the pc and every
general register are back, and only the six entry CSRs may differ (R195, R140; PLV0 at entry: G16; log 23). -/
def Obligations.ErtnUndoesOrdinaryEntry : Prop :=
  ∀ (s : State) (e : Exception) (info : TrapInfo), e.codes.isSome = true →
    s.isMerr = 0 → s.isTlbr = 0 → plvLegal s.cfg s.plv = true →
    ∃ t, exec .ertn (raise e info s) = .next t ∧ t.pc = narrow s.cfg s.pc ∧ t.plv = s.plv ∧ t.ie = s.ie ∧
      t.we = s.we ∧ t.da = s.da ∧ t.pg = s.pg ∧ t.datf = s.datf ∧ t.datm = s.datm ∧
      Keeps s t [] ordinaryEntryCsrs

/-- A TLB refill taken in mapped mode and its ERTN leave an outer handler's context whole: PRMD, ERA, ESTAT and BADV are
kept, and the mode, the translation mode and the (aligned) pc are back (R198, R140, R202: D18, D33, G11, G20; log 26,
28). -/
def Obligations.ErtnUndoesTlbRefillEntry : Prop :=
  ∀ (s : State) (info : TrapInfo), s.isMerr = 0 → s.da = 0 → s.pg = 1 → plvLegal s.cfg s.plv = true →
    getField s.pc 0 2 = 0 →
    ∃ t, exec .ertn (raise .tlbr info s) = .next t ∧ t.pc = narrow s.cfg s.pc ∧ t.plv = s.plv ∧ t.ie = s.ie ∧
      t.we = s.we ∧ t.da = 0 ∧ t.pg = 1 ∧ t.isTlbr = 0 ∧
      Keeps s t [] [.crmd, .tlbrprmd, .tlbrera, .tlbrbadv, .badi]

/-! ### SYSCALL and BREAK (`42_syscall_break.md`) -/

/-- SYSCALL raises SYS at every privilege level: Ecode 0xB, ERA its own address, BADI its word with the code in bits
14:0, BADV kept, nothing else changed (R150, R172, R195: D37, G28, G17; log 22, 37). -/
def Obligations.SyscallRaisesSys : Prop :=
  ∀ (s : State) (code : BitVec 15),
    ∃ t, exec (.syscall code) s = .next t ∧ OrdinaryEntry s t 0xB 0 ∧
      t.csr.badi = 0x002B0000 ||| code.setWidth 32 ∧ t.csr.badv = s.csr.badv ∧ t.draws = s.draws ∧
      t.pc = s.entry 0xB

/-- BREAK raises BRK at every privilege level: Ecode 0xC, ERA its own address, BADI its word with the code in bits 14:0,
BADV kept, nothing else changed (R151, R173, R195: D37, G28, G17; log 22, 37). -/
def Obligations.BreakRaisesBrk : Prop :=
  ∀ (s : State) (code : BitVec 15),
    ∃ t, exec (.brk code) s = .next t ∧ OrdinaryEntry s t 0xC 0 ∧
      t.csr.badi = 0x002A0000 ||| code.setWidth 32 ∧ t.csr.badv = s.csr.badv ∧ t.draws = s.draws ∧
      t.pc = s.entry 0xC

/-! ### Taking an exception (`60_exceptions.md`) -/

/-- The codes of the exception table (R161 to R183, R189; a blank Esubcode is 0: D17; INT is 0: D16; log 17, 18). -/
def Obligations.ExceptionTableCodes : Prop :=
  ([.pil, .pis, .pif, .pme, .pnr, .pnx, .ppi, .adef, .adem, .ale, .bce, .sys, .brk, .ine, .ipe, .fpd, .sxd, .asxd,
    .fpe, .vfpe, .wpef, .wpem, .int, .tlbr, .merr] : List Exception).map Exception.codes =
  [some (1, 0), some (2, 0), some (3, 0), some (4, 0), some (5, 0), some (6, 0), some (7, 0), some (8, 0),
   some (8, 1), some (9, 0), some (0xA, 0), some (0xB, 0), some (0xC, 0), some (0xD, 0), some (0xE, 0), some (0xF, 0),
   some (0x10, 0), some (0x11, 0), some (0x12, 0), some (0x12, 1), some (0x13, 0), some (0x13, 1), some (0, 0),
   none, none]

/-- The entry of every ordinary exception (R195, R197: D13, D14, G16, G17; log 22, 23, 24). -/
def Obligations.OrdinaryEntryEffect : Prop :=
  ∀ (s : State) (e : Exception) (ecode : BitVec 6) (esub : BitVec 9) (info : TrapInfo),
    e.codes = some (ecode, esub) →
    OrdinaryEntry s (raise e info s) ecode esub ∧
    (e ≠ .int → (raise e info s).pc = s.entry ecode.toNat)

/-- The entry of the TLB refill exception: its own register set, direct translation, entry at TLBRENTRY whatever
ECFG.VS; PRMD, ERA, ESTAT and BADV kept (R198: D18, G8, G16, G20; log 26). -/
def Obligations.TlbRefillEntryEffect : Prop :=
  ∀ (s : State) (info : TrapInfo) (w : Word32), info.inst = some w →
    ∃ t, raise .tlbr info s = t ∧ t.tlbrPplv = s.plv ∧ t.tlbrPie = s.ie ∧ t.tlbrPwe = s.we ∧ t.plv = 0 ∧ t.ie = 0 ∧
      t.we = 0 ∧ t.da = 1 ∧ t.pg = 0 ∧ t.datf = s.datf ∧ t.datm = s.datm ∧ t.isTlbr = 1 ∧
      getField t.csr.tlbrera 2 62 = getField s.pc 2 62 ∧ t.csr.tlbrbadv = info.badva ∧ t.csr.badi = w ∧
      t.pc = s.csrValue .tlbrentry ∧ t.llbit = s.llbit ∧ t.draws = s.draws ∧
      Keeps s t [] [.crmd, .tlbrprmd, .tlbrera, .tlbrbadv, .badi]

/-- The entry of the machine error exception: mode and translation fields into MERRCTL, direct translation, entry at
MERRENTRY; PRMD, ERA, ESTAT, BADV and BADI kept; the report free (R200: D18, D39, G21; log 26, 27). -/
def Obligations.MachineErrorEntryEffect : Prop :=
  ∀ (s : State) (info : TrapInfo),
    ∃ t, raise .merr info s = t ∧ t.merrPplv = s.plv ∧ t.merrPie = s.ie ∧ t.merrPwe = s.we ∧ t.merrPda = s.da ∧
      t.merrPpg = s.pg ∧ t.merrPdatf = s.datf ∧ t.merrPdatm = s.datm ∧ t.isMerr = 1 ∧
      getField t.csr.merrctl 1 1 = Config.merrRepairable s.draws ∧
      getField t.csr.merrctl 16 8 = Config.merrCause s.draws ∧
      t.csr.merrinfo1 = narrow s.cfg (Config.merrInfo1 s.draws) ∧
      t.csr.merrinfo2 = narrow s.cfg (Config.merrInfo2 s.draws) ∧ t.draws = s.draws + 1 ∧
      t.plv = 0 ∧ t.ie = 0 ∧ t.we = 0 ∧ t.da = 1 ∧ t.pg = 0 ∧ t.datf = 0 ∧ t.datm = 0 ∧ t.csr.merrera = s.pc ∧
      t.pc = s.csrValue .merrentry ∧ t.llbit = s.llbit ∧
      Keeps s t [] [.crmd, .merrctl, .merrera, .merrinfo1, .merrinfo2]

/-- Eleven exceptions record the faulting address in BADV, the TLB refill exception in TLBRBADV, and no other writes
BADV (R194: G31, D14; log 22). -/
def Obligations.BadvWrittenByAddressErrors : Prop :=
  ∀ (s : State) (e : Exception) (info : TrapInfo),
    (e ∈ ([.adef, .adem, .ale, .bce, .pil, .pis, .pif, .pme, .pnr, .pnx, .ppi] : List Exception) →
      (raise e info s).csr.badv = info.badva) ∧
    (e ∉ ([.adef, .adem, .ale, .bce, .pil, .pis, .pif, .pme, .pnr, .pnx, .ppi] : List Exception) →
      (raise e info s).csr.badv = s.csr.badv) ∧
    (raise e info s).csr.tlbrbadv = if e = .tlbr then info.badva else s.csr.tlbrbadv

/-- The 22 rows R161 to R182 and TLBR are synchronous and record the instruction in BADI; INT and MERR are asynchronous
and leave BADI as it is (R187, R25; GCHC, the third asynchronous exception the spec names, has no row and no code, R188,
and is none of the machine's). -/
def Obligations.SynchronousExceptionsWriteBadi : Prop :=
  ∀ (s : State) (e : Exception) (info : TrapInfo) (w : Word32), info.inst = some w →
    (e.synchronous = true ↔
      e ∈ ([.pil, .pis, .pif, .pme, .pnr, .pnx, .ppi, .adef, .adem, .ale, .bce, .sys, .brk, .ine, .ipe, .fpd, .sxd,
        .asxd, .fpe, .vfpe, .wpef, .wpem, .tlbr] : List Exception)) ∧
    (e.synchronous = false ↔ e = .int ∨ e = .merr) ∧
    (raise e info s).csr.badi = if e = .int ∨ e = .merr then s.csr.badi else w

/-- FPE, VFPE and WPEM have the codes (0x12, 0), (0x12, 1) and (0x13, 1) and record BADI, and no step of the machine
ever records one of them (R179, R180, R182): a step leaves the codes of ESTAT as they are, or writes Esubcode 0 and the
Ecode of INT, ADEF, SYS, BRK or IPE. That the Ecode of INT is 0 is D16 (log 17), that a blank Esubcode is 0 is D17
(log 18), and that a step raises no other exception is log 27 (D39). -/
def Obligations.FpeVfpeWpemRecordedButNeverRaised : Prop :=
  (∀ (s : State) (e : Exception) (info : TrapInfo) (w : Word32), info.inst = some w →
    e = .fpe ∨ e = .vfpe ∨ e = .wpem →
    (raise e info s).csr.badi = w ∧
    (e = .fpe → (raise e info s).ecode = 0x12 ∧ (raise e info s).esubcode = 0 ∧ e.cls = .softwareCorrection) ∧
    (e = .vfpe → (raise e info s).ecode = 0x12 ∧ (raise e info s).esubcode = 1 ∧ e.cls = .softwareCorrection) ∧
    (e = .wpem → (raise e info s).ecode = 0x13 ∧ (raise e info s).esubcode = 1 ∧ e.cls = .systemCallOrTrap)) ∧
  (∀ s t : State, step s = .next t →
    (t.ecode = s.ecode ∧ t.esubcode = s.esubcode) ∨
    (t.esubcode = 0 ∧ t.ecode ∈ ([0, 0x8, 0xB, 0xC, 0xE] : List (BitVec 6))))

/-- FPD, SXD and ASXD have Ecode 0xF, 0x10 and 0x11, stand in the class of system calls and traps, and record BADI, and
no step of the machine raises one of them: a step writes none of these codes where it was not already (R176, R177,
R178). -/
def Obligations.UnitExceptionsRecordedButNeverRaised : Prop :=
  (∀ (s : State) (e : Exception) (info : TrapInfo) (w : Word32), info.inst = some w →
    e = .fpd ∨ e = .sxd ∨ e = .asxd →
    (raise e info s).csr.badi = w ∧ e.cls = .systemCallOrTrap ∧
    (e = .fpd → (raise e info s).ecode = 0xF) ∧ (e = .sxd → (raise e info s).ecode = 0x10) ∧
    (e = .asxd → (raise e info s).ecode = 0x11)) ∧
  (∀ s t : State, step s = .next t → t.ecode ∈ ([0xF, 0x10, 0x11] : List (BitVec 6)) → t.ecode = s.ecode)

/-- The entry address: EENTRY's value in flat mode whatever the code, and else EENTRY OR `2^(VS+2) * code`, also where
base and offset share a bit; where they share none this is their sum (R196: joined by OR, D15, G18; log 16). -/
def Obligations.EntryAddressIsBasePlusOffset : Prop :=
  ∀ (s : State) (code : Nat),
    (s.vs = 0 → s.entry code = s.csrValue .eentry) ∧
    (s.vs ≠ 0 → s.entry code = s.csrValue .eentry ||| BitVec.ofNat 64 (2 ^ (s.vs.toNat + 2) * code)) ∧
    (s.vs ≠ 0 → s.csrValue .eentry &&& BitVec.ofNat 64 (2 ^ (s.vs.toNat + 2) * code) = 0 →
      s.entry code = s.csrValue .eentry + BitVec.ofNat 64 (2 ^ (s.vs.toNat + 2) * code))

/-! ### Reset and the rules of the whole machine -/

/-- Reset, for every configuration and every power-on contents: the values R71 lists, and everything else as it was:
every general register but x[0], every other CSR, the other bits of the CSRs that R71 sets in part, the LLBit, the
lines and memory (all of it general knowledge of the spec, G26, D30; that EUEN and ECFG are cleared whole and the places
of TCFG.En, LLBCTL.KLO and the DMW bits are the model's reading, G29; log 3, 4). -/
def Obligations.ResetState : Prop :=
  ∀ (c : Config) (u : State),
    let s := State.resetOf c u
    s.cfg = c ∧ s.pc = c.resetPc ∧ s.plv = 0 ∧ s.ie = 0 ∧ s.da = 1 ∧ s.pg = 0 ∧ s.datf = 0 ∧ s.datm = 0 ∧ s.we = 0 ∧
    s.csr.crmd = 0x008 ∧ s.csr.euen = 0 ∧ s.csr.misc = 0 ∧ s.csr.ecfg = 0 ∧ s.lie = 0 ∧ s.vs = 0 ∧
    getField s.csr.estat 0 2 = 0 ∧ s.isTlbr = 0 ∧ s.isMerr = 0 ∧ getField s.csr.tcfg 0 1 = 0 ∧ s.klo = 0 ∧
    getField s.csr.dmw0 0 4 = 0 ∧ getField s.csr.dmw1 0 4 = 0 ∧ getField s.csr.dmw2 0 4 = 0 ∧
    getField s.csr.dmw3 0 4 = 0 ∧ s.x 0 = 0 ∧
    (∀ i : Fin 32, i ≠ 0 → s.gpr[i] = u.gpr[i]) ∧
    (∀ r : Csr, r ∉ resetCsrs → s.csr.get r = u.csr.get r) ∧
    getField s.csr.estat 2 30 = getField u.csr.estat 2 30 ∧
    getField s.csr.tlbrera 1 63 = getField u.csr.tlbrera 1 63 ∧
    getField s.csr.merrctl 1 31 = getField u.csr.merrctl 1 31 ∧
    getField s.csr.tcfg 1 63 = getField u.csr.tcfg 1 63 ∧
    getField s.csr.llbctl 0 2 = getField u.csr.llbctl 0 2 ∧
    getField s.csr.llbctl 3 29 = getField u.csr.llbctl 3 29 ∧
    getField s.csr.dmw0 4 60 = getField u.csr.dmw0 4 60 ∧ getField s.csr.dmw1 4 60 = getField u.csr.dmw1 4 60 ∧
    getField s.csr.dmw2 4 60 = getField u.csr.dmw2 4 60 ∧ getField s.csr.dmw3 4 60 = getField u.csr.dmw3 4 60 ∧
    s.llbit = u.llbit ∧ s.lines = u.lines ∧ s.oracle = u.oracle ∧ s.draws = u.draws ∧ s.mem = u.mem

/-- The state after reset has the invariant, and so has the reset state of every configuration in the ranges of R6, from
blank power-on contents (the model's own invariant; its reset values: log 1, 3, 4). -/
def Obligations.ResetHasInvariant : Prop :=
  Inv State.reset ∧ ∀ c : Config, c.wf = true → Inv (State.resetOf c State.blank)

/-- Every step keeps the invariant: memory canonical, register 0 zero, GRLEN-bit registers and pc, reserved bits of
every CSR zero, a legal PLV, no machine error scene, MISC zero (R11, R12, R16, R17, R20, R53: D2, D8, D32, D39; log 5,
9, 11, 27, 30). -/
def Obligations.StepKeepsInvariant : Prop :=
  ∀ s t : State, Inv s → step s = .next t → Inv t

/-- No step changes a byte of memory or the configuration (R81, R90, R93: D28; log 35, 40). -/
def Obligations.ProgramAndConfigurationConstant : Prop :=
  ∀ s t : State, step s = .next t → t.cfg = s.cfg ∧ ∀ a, Memory.read t.mem a = Memory.read s.mem a

/-- Below PLV0 every step that completes is an exception entry: it ends at PLV0 with the old level in PRMD.PPLV, ERA the
pc, one of the five codes the machine raises, and every general register, every CSR outside the six entry CSRs and the
LLBit as they were (R206, R207, R208: D5, G5, G16; log 9, 23). -/
def Obligations.UserModeStepsOnlyTrap : Prop :=
  ∀ s t : State, s.plv ≠ 0 → step s = .next t →
    ∃ ecode ∈ ([0, 0x8, 0xB, 0xC, 0xE] : List (BitVec 6)), OrdinaryEntry s.sample t ecode 0

/-- The privilege level changes in three ways only: an exception entry, which leads to PLV0; at PLV0, an ERTN; at PLV0,
a CSRWR or CSRXCHG of CRMD (R207: G16, D5; log 9, 23). -/
def Obligations.PrivilegeLevelChangesOnlyThreeWays : Prop :=
  ∀ s t : State, step s = .next t → t.plv ≠ s.plv →
    (t.plv = 0 ∧ t.pplv = s.plv ∧ t.csr.era = s.pc) ∨
    (s.plv = 0 ∧ ∃ w, fetchWord s s.pc = some w ∧
      (decode w = .ok .ertn ∨ (∃ rd, decode w = .ok (.csrwr rd 0x0)) ∨ ∃ rd rj, decode w = .ok (.csrxchg rd rj 0x0)))

/-- A CSR that neither exception entry nor ERTN writes (ECFG, EENTRY, the SAVE registers, every TLB, timer, window and
debug register among them) changes only when the instruction at the pc is a CSRWR or CSRXCHG, run at PLV0, whose
csr_num names it (R21, R26, R38, R48, R58, R122: D7; log 2). -/
def Obligations.CsrsChangeOnlyByNamedWrite : Prop :=
  ∀ (s t : State) (r : Csr), step s = .next t →
    r ∉ ([.prmd, .crmd, .estat, .era, .badv, .badi, .merrctl, .tlbrera] : List Csr) →
    t.csr.get r ≠ s.csr.get r →
    s.plv = 0 ∧ ∃ w rd rj n, fetchWord s s.pc = some w ∧ csrOfNum s.cfg n = some r ∧
      (decode w = .ok (.csrwr rd n) ∨ decode w = .ok (.csrxchg rd rj n))

/-- A run is over exactly where the pc is END_PC: there it ends in that state however many steps it is given, and
anywhere else, or without an END_PC, it takes the step first, and goes on from the next state or is refused as the step
is (R238: D35; log 39). -/
def Obligations.RunEndsAtEndPc : Prop :=
  ∀ (k : Nat) (s : State),
    (s.cfg.endPc = some s.pc → runToEnd k s = .next s) ∧
    (s.cfg.endPc ≠ some s.pc →
      (∀ t, step s = .next t → runToEnd (k + 1) s = runToEnd k t) ∧
      (∀ r, step s = .refused r → runToEnd (k + 1) s = .refused r))
end

