-- ==== Sys2Proof/Laws/Csr.lean ====
section
/-! SUPPORT. The CSR file: reading after writing, the numbers of the registers, and their masks. -/

namespace Sys2Proof.Laws

open Sys2Proof.Machine

/-- Reading back what was stored: all of it in a GR-wide register, the low 32 bits in a 32-bit one. -/
theorem csrs_get_put_same (k : Csrs) (r : Csr) (v : Word) :
    (k.put r v).get r = if r.wide then v else (v.setWidth 32).setWidth 64 := by
  cases r <;> simp [Csrs.get, Csrs.put, Csr.wide]

/-- Storing into one register leaves every other register as it was. -/
theorem csrs_get_put_ne (k : Csrs) {r r' : Csr} (v : Word) (h : r' ≠ r) : (k.put r v).get r' = k.get r' := by
  cases r with
  | save n =>
    cases r' with
    | save m =>
      have hne : ¬ (n : Nat) = m := fun e => h (by rw [Fin.ext e])
      simp [Csrs.get, Csrs.put, hne]
    | _ => rfl
  | _ => cases r' <;> first | rfl | exact absurd rfl h

/-- A 32-bit register stores nothing above bit 31. -/
theorem csrs_get_width (k : Csrs) (r : Csr) (h : r.wide = false) : (k.get r).toNat < 2 ^ 32 := by
  cases r <;> simp_all [Csr.wide, Csrs.get] <;>
    exact Nat.lt_of_le_of_lt (Nat.mod_le _ _) (BitVec.isLt _)

/-- Storing what a register holds changes nothing. -/
@[simp] theorem csrs_put_get (k : Csrs) (r : Csr) : k.put r (k.get r) = k := by
  cases r <;> simp [Csrs.put, Csrs.get]

/-- Every register of the inventory stands in the list the numbers are looked up in. -/
theorem mem_csrs (r : Csr) : r ∈ singleCsrs ++ saveCsrs := by
  cases r with
  | save n => simp [saveCsrs, singleCsrs]
  | _ => simp [singleCsrs]

/-- No two registers have the same number. -/
theorem csr_num_injective {r r' : Csr} (h : r.num = r'.num) : r = r' := by
  cases r with
  | save n =>
    cases r' with
    | save m => simp [Csr.num] at h; rw [Fin.ext h]
    | _ => exfalso; simp only [Csr.num] at h; omega
  | _ =>
    cases r' with
    | save m => exfalso; simp only [Csr.num] at h; omega
    | _ => first | rfl | (simp [Csr.num] at h)

/-- The register a number addresses has that number and is implemented. -/
theorem csrOfNum_some {c : Config} {n : CsrNum} {r : Csr} (h : csrOfNum c n = some r) :
    r.num = n.toNat ∧ r.implemented c = true := by
  have := List.find?_some h
  simpa using this

/-- A register that the core has is addressed by its number. -/
theorem csrOfNum_num {c : Config} {n : CsrNum} {r : Csr} (hn : r.num = n.toNat) (hi : r.implemented c = true) :
    csrOfNum c n = some r := by
  unfold csrOfNum
  cases hf : (singleCsrs ++ saveCsrs).find? (fun r => r.num == n.toNat && r.implemented c) with
  | none =>
    have := List.find?_eq_none.mp hf r (mem_csrs r)
    simp [hn, hi] at this
  | some q =>
    have := List.find?_some hf
    simp at this
    rw [csr_num_injective (this.1.trans hn.symm)]

/-- A number that no register of the core has addresses an undefined CSR. -/
theorem csrOfNum_none {c : Config} {n : CsrNum} :
    csrOfNum c n = none ↔ ∀ r : Csr, r.num = n.toNat → r.implemented c = false := by
  unfold csrOfNum
  rw [List.find?_eq_none]
  constructor
  · intro h r hr
    have := h r (mem_csrs r)
    simpa [hr] using this
  · intro h r _
    by_cases hr : r.num = n.toNat <;> simp [hr, h]

/-- Software writes only bits that are fields. -/
theorem writeMask_sub_fieldMask (c : Config) (r : Csr) : r.writeMask c &&& ~~~r.fieldMask c = 0 := by
  cases r with
  | estat => simp only [Csr.writeMask, Csr.fieldMask]; decide
  | badi => simp [Csr.writeMask]
  | merrctl =>
    simp only [Csr.writeMask, Csr.fieldMask, watchMask]
    cases c.watch <;> decide
  | _ => simp [Csr.writeMask]

/-- The fields of a GR-wide register lie in GRLEN bits. -/
theorem fieldMask_sub_grMask (c : Config) (r : Csr) (h : r.wide = true) : r.fieldMask c &&& ~~~grMask c = 0 := by
  cases r <;> simp [Csr.wide] at h <;> simp only [Csr.fieldMask, Csr.widthMask, Csr.wide, if_true] <;>
    (apply BitVec.eq_of_getLsbD_eq; intro i hi; simp [hi]; try (intro a; simp [a]))

/-- The value of a GR-wide register has no bit outside GRLEN. -/
theorem csrValue_fits (s : State) (r : Csr) (h : r.wide = true) : s.csrValue r &&& ~~~grMask s.cfg = 0 := by
  have e : s.csrValue r = s.csr.get r &&& r.fieldMask s.cfg := by cases r <;> first | rfl | cases h
  rw [e, BitVec.and_assoc, fieldMask_sub_grMask s.cfg r h]; simp

end Sys2Proof.Laws
end

