-- ==== Sys2Proof/Laws/Fields.lean ====
section
/-! SUPPORT. Bit fields: what a field reads after a field is written. -/

namespace Sys2Proof.Laws

open Sys2Proof.Machine

/-- One bit of a register whose field was written. -/
theorem getLsbD_setField {w n : Nat} (v : BitVec w) (lo : Nat) (f : BitVec n) (i : Nat) :
    (setField v lo f).getLsbD i =
      if lo ≤ i ∧ i < lo + n ∧ i < w then f.getLsbD (i - lo) else v.getLsbD i := by
  unfold setField
  by_cases hw : i < w
  · by_cases h1 : lo ≤ i
    · by_cases h2 : i < lo + n
      · have h3 : i - lo < n := by omega
        simp [hw, h1, h2, h3, Nat.not_lt.mpr h1]
      · have h3 : ¬ i - lo < n := by omega
        simp [hw, h1, h2, h3, BitVec.getLsbD_of_ge f (i - lo) (by omega)]
    · simp [hw, h1, Nat.not_le.mp h1]
  · simp [hw, BitVec.getLsbD_of_ge v i (Nat.not_lt.mp hw)]

/-- One bit of a field. -/
theorem getLsbD_getField {w : Nat} (v : BitVec w) (lo n i : Nat) :
    (getField v lo n).getLsbD i = (decide (i < n) && v.getLsbD (lo + i)) := by
  simp [getField]

/-- A field reads what was written into it. -/
theorem getField_setField_same {w n : Nat} (v : BitVec w) (lo : Nat) (f : BitVec n) (h : lo + n ≤ w) :
    getField (setField v lo f) lo n = f := by
  apply BitVec.eq_of_getLsbD_eq
  intro i hi
  rw [getLsbD_getField, getLsbD_setField]
  have h1 : i < n := hi
  simp [h1, show lo + i < w by omega]

/-- A field is not changed by a write to a field that lies apart from it. -/
theorem getField_setField_apart {w n : Nat} (v : BitVec w) (lo : Nat) (f : BitVec n) (lo' n' : Nat)
    (h : lo' + n' ≤ lo ∨ lo + n ≤ lo') : getField (setField v lo f) lo' n' = getField v lo' n' := by
  apply BitVec.eq_of_getLsbD_eq
  intro i hi
  rw [getLsbD_getField, getLsbD_setField, getLsbD_getField]
  rw [if_neg (by omega)]

/-- Writing a field keeps the bits outside a mask 0, if what lands outside the mask is 0. -/
theorem setField_outside_mask {w n : Nat} (v M : BitVec w) (lo : Nat) (f : BitVec n) (h : v &&& ~~~M = 0)
    (hf : ∀ i, i < w → lo ≤ i → i < lo + n → M.getLsbD i = false → f.getLsbD (i - lo) = false) :
    setField v lo f &&& ~~~M = 0 := by
  apply BitVec.eq_of_getLsbD_eq
  intro i hi
  have h1 := congrArg (fun x => BitVec.getLsbD x i) h
  simp [hi] at h1
  rw [BitVec.getLsbD_and, getLsbD_setField, BitVec.getLsbD_not]
  split
  · rename_i hh
    have := hf i hi hh.1 hh.2.1
    cases hM : M.getLsbD i
    · simp [this hM]
    · simp
  · simp [hi]; exact h1

/-- A watchpoint bit that passed the test once passes it again. -/
@[simp] theorem watched_watched (c : Config) (f : BitVec 1) : watched c (watched c f) = watched c f := by
  unfold watched; cases c.watch <;> simp

@[simp] theorem watched_zero (c : Config) : watched c 0 = 0 := by unfold watched; cases c.watch <;> simp

end Sys2Proof.Laws
end

