-- ==== Sys2Proof/Laws/Memory.lean ====
section
/-! SUPPORT. Memory: the canonical form is kept by every operation, and a read after a write. -/

namespace Sys2Proof.Laws

open Sys2Proof.Machine

/-- The head of a canonical memory lies below every address of its tail's head, so a byte may stand before it when it
lies lower still. -/
theorem memory_wf_cons {a : Nat} {x : Byte} {m : Memory} (h : Memory.wf m = true)
    (low : ∀ b y m', m = (b, y) :: m' → a < b) : Memory.wf ((a, x) :: m) = true := by
  cases m with
  | nil => rfl
  | cons p m' => simp [Memory.wf, h, low p.1 p.2 m' rfl]

theorem memory_wf_tail {p : Host.Cell} {m : Memory} (h : Memory.wf (p :: m) = true) : Memory.wf m = true := by
  cases m with
  | nil => rfl
  | cons q m' => simp [Memory.wf] at h; exact h.2

theorem memory_wf_head {b : Nat} {y : Byte} {c : Nat} {z : Byte} {m : Memory}
    (h : Memory.wf ((b, y) :: (c, z) :: m) = true) : b < c := by
  simp [Memory.wf] at h; exact h.1

/-- The first address after a write is the written one or the first address before it. -/
theorem memory_write_head {m : Memory} {a : Nat} {x : Byte} {c : Nat} {z : Byte} {m' : Memory}
    (h : Memory.write m a x = (c, z) :: m') : c = a ∨ ∃ y n, m = (c, y) :: n := by
  cases m with
  | nil => simp [Memory.write] at h; exact .inl h.1.1.symm
  | cons p n =>
    obtain ⟨b, y⟩ := p
    unfold Memory.write at h
    split at h
    · simp at h; exact .inl h.1.1.symm
    · split at h
      · simp at h; exact .inl h.1.1.symm
      · simp at h; exact .inr ⟨y, n, by rw [h.1.1]⟩

/-- A write keeps the canonical form. -/
theorem memory_write_wf (m : Memory) (a : Nat) (x : Byte) (h : Memory.wf m = true) :
    Memory.wf (Memory.write m a x) = true := by
  induction m with
  | nil => rfl
  | cons p n ih =>
    obtain ⟨b, y⟩ := p
    unfold Memory.write
    split
    · exact memory_wf_cons h (fun _ _ _ e => by simp at e; omega)
    · split
      · rename_i _ e
        refine memory_wf_cons (memory_wf_tail h) (fun c z m' e' => ?_)
        subst e'
        have := memory_wf_head h
        omega
      · rename_i h1 h2
        refine memory_wf_cons (ih (memory_wf_tail h)) (fun c z m' e => ?_)
        rcases memory_write_head e with rfl | ⟨w, k, rfl⟩
        · omega
        · exact memory_wf_head h

/-- Placing several bytes keeps the canonical form. -/
theorem memory_writeBytes_wf (bs : List Byte) (m : Memory) (a : Nat) (h : Memory.wf m = true) :
    Memory.wf (Memory.writeBytes m a bs) = true := by
  induction bs generalizing m a with
  | nil => exact h
  | cons b bs ih => exact ih _ _ (memory_write_wf m a b h)

/-- Reading a byte after a write: the written byte at its address, the old one elsewhere. -/
theorem memory_read_write (m : Memory) (a : Nat) (x : Byte) (b : Nat) :
    Memory.read (Memory.write m a x) b = if b = a then some x else Memory.read m b := by
  induction m with
  | nil => simp [Memory.write, Memory.read]
  | cons p n ih =>
    obtain ⟨c, y⟩ := p
    unfold Memory.write
    split
    · simp [Memory.read]
    · split
      · rename_i _ e
        subst e
        simp only [Memory.read]
        split <;> simp_all
      · rename_i h1 h2
        simp only [Memory.read, ih]
        split
        · rename_i e; subst e; simp [Ne.symm h2]
        · rfl

/-- Placing a program word keeps the canonical form. -/
theorem placeWord_wf (s : State) (va : Word) (w : Word32) (h : Memory.wf s.mem = true) :
    Memory.wf (placeWord s va w).mem = true :=
  memory_writeBytes_wf _ _ _ h

end Sys2Proof.Laws
end

