-- ==== Sys2Proof/Laws/State.lean ====
section
/-! SUPPORT. One lemma per field and named update of the state, so that no proof unfolds a record update. -/

namespace Sys2Proof.Laws

open Sys2Proof.Machine

section setX
variable (s : State) (i : Reg) (v : Word)

@[simp] theorem setX_cfg : (s.setX i v).cfg = s.cfg := by unfold State.setX; split <;> rfl
@[simp] theorem setX_pc : (s.setX i v).pc = s.pc := by unfold State.setX; split <;> rfl
@[simp] theorem setX_csr : (s.setX i v).csr = s.csr := by unfold State.setX; split <;> rfl
@[simp] theorem setX_llbit : (s.setX i v).llbit = s.llbit := by unfold State.setX; split <;> rfl
@[simp] theorem setX_lines : (s.setX i v).lines = s.lines := by unfold State.setX; split <;> rfl
@[simp] theorem setX_oracle : (s.setX i v).oracle = s.oracle := by unfold State.setX; split <;> rfl
@[simp] theorem setX_draws : (s.setX i v).draws = s.draws := by unfold State.setX; split <;> rfl
@[simp] theorem setX_mem : (s.setX i v).mem = s.mem := by unfold State.setX; split <;> rfl

end setX

section sample
variable (s : State)

@[simp] theorem sample_cfg : s.sample.cfg = s.cfg := by unfold State.sample; split <;> rfl
@[simp] theorem sample_gpr : s.sample.gpr = s.gpr := by unfold State.sample; split <;> rfl
@[simp] theorem sample_pc : s.sample.pc = s.pc := by unfold State.sample; split <;> rfl
@[simp] theorem sample_csr : s.sample.csr = s.csr := by unfold State.sample; split <;> rfl
@[simp] theorem sample_llbit : s.sample.llbit = s.llbit := by unfold State.sample; split <;> rfl
@[simp] theorem sample_draws : s.sample.draws = s.draws := by unfold State.sample; split <;> rfl
@[simp] theorem sample_mem : s.sample.mem = s.mem := by unfold State.sample; split <;> rfl

end sample

section placeWord
variable (s : State) (va : Word) (w : Word32)

@[simp] theorem placeWord_cfg : (placeWord s va w).cfg = s.cfg := rfl
@[simp] theorem placeWord_gpr : (placeWord s va w).gpr = s.gpr := rfl
@[simp] theorem placeWord_pc : (placeWord s va w).pc = s.pc := rfl
@[simp] theorem placeWord_csr : (placeWord s va w).csr = s.csr := rfl
@[simp] theorem placeWord_llbit : (placeWord s va w).llbit = s.llbit := rfl
@[simp] theorem placeWord_lines : (placeWord s va w).lines = s.lines := rfl
@[simp] theorem placeWord_oracle : (placeWord s va w).oracle = s.oracle := rfl
@[simp] theorem placeWord_draws : (placeWord s va w).draws = s.draws := rfl

end placeWord

section takeOrdinary
variable (e : Exception) (ec : BitVec 6) (es : BitVec 9) (info : TrapInfo) (s : State)

@[simp] theorem takeOrdinary_cfg : (takeOrdinary e ec es info s).cfg = s.cfg := rfl
@[simp] theorem takeOrdinary_gpr : (takeOrdinary e ec es info s).gpr = s.gpr := rfl
@[simp] theorem takeOrdinary_llbit : (takeOrdinary e ec es info s).llbit = s.llbit := rfl
@[simp] theorem takeOrdinary_lines : (takeOrdinary e ec es info s).lines = s.lines := rfl
@[simp] theorem takeOrdinary_oracle : (takeOrdinary e ec es info s).oracle = s.oracle := rfl
@[simp] theorem takeOrdinary_mem : (takeOrdinary e ec es info s).mem = s.mem := rfl
@[simp] theorem takeOrdinary_pc : (takeOrdinary e ec es info s).pc = s.entry (entryCode e ec s) := rfl
@[simp] theorem takeOrdinary_era : (takeOrdinary e ec es info s).csr.era = s.pc := rfl
@[simp] theorem takeOrdinary_crmd :
    (takeOrdinary e ec es info s).csr.crmd = crmdWithMode s.csr.crmd 0 0 0 := rfl
@[simp] theorem takeOrdinary_prmd :
    (takeOrdinary e ec es info s).csr.prmd = prmdSaving s.csr.prmd s.plv s.ie s.we := rfl
@[simp] theorem takeOrdinary_estat :
    (takeOrdinary e ec es info s).csr.estat = estatWithCodes s.csr.estat ec es := rfl

end takeOrdinary

section takeTlbRefill
variable (info : TrapInfo) (s : State)

@[simp] theorem takeTlbRefill_cfg : (takeTlbRefill info s).cfg = s.cfg := rfl
@[simp] theorem takeTlbRefill_gpr : (takeTlbRefill info s).gpr = s.gpr := rfl
@[simp] theorem takeTlbRefill_llbit : (takeTlbRefill info s).llbit = s.llbit := rfl
@[simp] theorem takeTlbRefill_lines : (takeTlbRefill info s).lines = s.lines := rfl
@[simp] theorem takeTlbRefill_oracle : (takeTlbRefill info s).oracle = s.oracle := rfl
@[simp] theorem takeTlbRefill_mem : (takeTlbRefill info s).mem = s.mem := rfl

end takeTlbRefill

section takeMachineError
variable (s : State)

@[simp] theorem takeMachineError_cfg : (takeMachineError s).cfg = s.cfg := rfl
@[simp] theorem takeMachineError_gpr : (takeMachineError s).gpr = s.gpr := rfl
@[simp] theorem takeMachineError_llbit : (takeMachineError s).llbit = s.llbit := rfl
@[simp] theorem takeMachineError_lines : (takeMachineError s).lines = s.lines := rfl
@[simp] theorem takeMachineError_oracle : (takeMachineError s).oracle = s.oracle := rfl
@[simp] theorem takeMachineError_mem : (takeMachineError s).mem = s.mem := rfl

end takeMachineError

section returnFrom
variable (s : State)

@[simp] theorem returnFrom_cfg : (returnFrom s).cfg = s.cfg := rfl
@[simp] theorem returnFrom_gpr : (returnFrom s).gpr = s.gpr := rfl
@[simp] theorem returnFrom_pc : (returnFrom s).pc = returnTarget s := rfl
@[simp] theorem returnFrom_crmd : (returnFrom s).csr.crmd = restoredCrmd s := rfl
@[simp] theorem returnFrom_lines : (returnFrom s).lines = s.lines := rfl
@[simp] theorem returnFrom_oracle : (returnFrom s).oracle = s.oracle := rfl
@[simp] theorem returnFrom_draws : (returnFrom s).draws = s.draws := rfl
@[simp] theorem returnFrom_mem : (returnFrom s).mem = s.mem := rfl

end returnFrom

end Sys2Proof.Laws
end

