-- ==== Sys2Proof/Laws/Ops.lean ====
section
/-! SUPPORT. What each shared operation can do, said once. -/

namespace Sys2Proof.Laws

open Sys2Proof.Machine

/-! ### Widths -/

/-- What a register reads has no bit outside GRLEN. -/
theorem narrow_fits (c : Config) (v : Word) : narrow c v &&& ~~~grMask c = 0 := by
  simp [narrow, BitVec.and_assoc]

/-- Cutting to GRLEN twice is cutting once. -/
@[simp] theorem narrow_narrow (c : Config) (v : Word) : narrow c (narrow c v) = narrow c v := by
  simp [narrow, BitVec.and_assoc]

/-- x[j] after a write to x[i] (`10_state.md` R11). -/
theorem x_setX (s : State) (i j : Reg) (v : Word) :
    (s.setX i v).x j = if j = 0 then 0 else if j = i then narrow s.cfg v else s.x j := by
  unfold State.x
  rw [setX_cfg]
  by_cases hj : j = 0
  · rw [if_pos hj, if_pos hj]
  · rw [if_neg hj, if_neg hj, if_neg hj]
    unfold State.setX
    by_cases hi : i = 0
    · rw [if_pos hi, if_neg (fun e => hj (e.trans hi))]
    · rw [if_neg hi]
      by_cases hij : j = i
      · subst hij; simp
      · have : ¬ i.toNat = j.toNat := fun h => hij (BitVec.eq_of_toNat_eq h.symm)
        rw [if_neg hij]
        simp [this]

/-! ### The end of an instruction -/

/-- If an instruction ends by advancing, only the pc changes, to pc + 4, and it stays below the top. -/
theorem advance_next {s t : State} (h : advance s = .next t) :
    t = { s with pc := s.pc + 4 } ∧ s.pc.toNat + 4 < 2 ^ s.cfg.grlen := by
  unfold advance at h
  split at h
  · rename_i hlt; exact ⟨by simpa using h.symm, hlt⟩
  · cases h

/-- Below the top an instruction can always advance. -/
theorem advance_below {s : State} (h : s.pc.toNat + 4 < 2 ^ s.cfg.grlen) :
    advance s = .next { s with pc := s.pc + 4 } := by
  unfold advance; rw [if_pos h]

/-! ### CSR access -/

/-- A CSR read answers a free value and counts it, or the value of a register and changes nothing. -/
theorem csrRead_ok {n : CsrNum} {s t : State} {v : Word} (h : csrRead n s = .ok (v, t)) :
    (csrOfNum s.cfg n = none ∧ v = narrow s.cfg (Config.undefinedCsr s.draws) ∧ t = { s with draws := s.draws + 1 }) ∨
    (∃ r, csrOfNum s.cfg n = some r ∧ accessRefused s.cfg r = false ∧ v = s.csrForGr r ∧ t = s) := by
  unfold csrRead at h
  split at h
  · rename_i hn
    simp at h; exact .inl ⟨hn, h.1.symm, h.2.symm⟩
  · rename_i r hr
    split at h
    · cases h
    · rename_i ha
      simp at h; exact .inr ⟨r, hr, by simpa using ha, h.1.symm, h.2.symm⟩

/-- A store into a CSR replaces that register's contents; CRMD gets a legal PLV and MISC gets 0. -/
theorem csrStore_ok {r : Csr} {v : Word} {s t : State} (h : csrStore r v s = .ok t) :
    t = { s with csr := s.csr.put r v } ∧ (r = .crmd → plvLegal s.cfg (getField v 0 2) = true) ∧
      (r = .misc → v = 0) := by
  unfold csrStore at h
  split at h
  · split at h
    · rename_i hp; simp at h; exact ⟨h.symm, fun _ => hp, nofun⟩
    · cases h
  · split at h
    · rename_i hp; simp at h; exact ⟨h.symm, nofun, fun _ => hp⟩
    · cases h
  · rename_i h1 h2
    simp at h; exact ⟨h.symm, fun e => absurd e h1, fun e => absurd e h2⟩

/-- Where the stored value is one the core accepts, the store succeeds. -/
theorem csrStore_legal {r : Csr} {v : Word} (s : State) (hp : r = .crmd → plvLegal s.cfg (getField v 0 2) = true)
    (hm : r = .misc → v = 0) : csrStore r v s = .ok { s with csr := s.csr.put r v } := by
  unfold csrStore
  split
  · rw [if_pos (hp rfl)]
  · rw [if_pos (hm rfl)]
  · rfl

/-- A CSR write changes nothing at an undefined number, and else one register by the masked merge. -/
theorem csrWrite_ok {n : CsrNum} {v m : Word} {s t : State} (h : csrWrite n v m s = .ok t) :
    (csrOfNum s.cfg n = none ∧ t = s) ∨
    (∃ r, csrOfNum s.cfg n = some r ∧ accessRefused s.cfg r = false ∧
      csrStore r (mergeMasked (s.csr.get r) v (r.writeMask s.cfg &&& m)) s = .ok t) := by
  unfold csrWrite at h
  split at h
  · rename_i hn; simp at h; exact .inl ⟨hn, h.symm⟩
  · rename_i r hr
    split at h
    · cases h
    · rename_i ha; exact .inr ⟨r, hr, by simpa using ha, h⟩

/-- What the body of CSRRD can do. -/
theorem csrToGr_next {rd : Reg} {n : CsrNum} {s t : State} (h : csrToGr rd n s = .next t) :
    ∃ v s1, csrRead n s = .ok (v, s1) ∧ advance (s1.setX rd v) = .next t := by
  unfold csrToGr at h
  split at h
  · cases h
  · rename_i v s1 hr; exact ⟨v, s1, hr, h⟩

/-- What the body of CSRWR and CSRXCHG can do. -/
theorem csrExchange_next {rd : Reg} {n : CsrNum} {new mask : Word} {s t : State}
    (h : csrExchange rd n new mask s = .next t) :
    ∃ v s1 s2, csrRead n s = .ok (v, s1) ∧ csrWrite n new mask s1 = .ok s2 ∧ advance (s2.setX rd v) = .next t := by
  unfold csrExchange at h
  split at h
  · cases h
  · rename_i v s1 hr
    split at h
    · cases h
    · rename_i s2 hw; exact ⟨v, s1, s2, hr, hw, h⟩

/-! ### Exceptions -/

/-- The entry of an exception is one of three. -/
theorem raise_cases (e : Exception) (info : TrapInfo) (s : State) :
    (∃ ec es, e.codes = some (ec, es) ∧ raise e info s = takeOrdinary e ec es info s) ∨
    (e = .tlbr ∧ raise e info s = takeTlbRefill info s) ∨ (e = .merr ∧ raise e info s = takeMachineError s) := by
  cases e <;> first
    | exact .inl ⟨_, _, rfl, rfl⟩
    | exact .inr (.inl ⟨rfl, rfl⟩)
    | exact .inr (.inr ⟨rfl, rfl⟩)

/-- An ordinary entry stores into six CSRs only. -/
theorem takeOrdinary_get (e : Exception) (ec : BitVec 6) (es : BitVec 9) (info : TrapInfo) (s : State) (r : Csr)
    (h : r ∉ ([.prmd, .crmd, .estat, .era, .badv, .badi] : List Csr)) :
    (takeOrdinary e ec es info s).csr.get r = s.csr.get r := by
  cases r <;> first | rfl | exact absurd (by simp) h

/-- A TLB refill entry stores into five CSRs only. -/
theorem takeTlbRefill_get (info : TrapInfo) (s : State) (r : Csr)
    (h : r ∉ ([.crmd, .tlbrprmd, .tlbrera, .tlbrbadv, .badi] : List Csr)) :
    (takeTlbRefill info s).csr.get r = s.csr.get r := by
  cases r <;> first | rfl | exact absurd (by simp) h

/-- A machine error entry stores into five CSRs only. -/
theorem takeMachineError_get (s : State) (r : Csr)
    (h : r ∉ ([.crmd, .merrctl, .merrera, .merrinfo1, .merrinfo2] : List Csr)) :
    (takeMachineError s).csr.get r = s.csr.get r := by
  cases r <;> first | rfl | exact absurd (by simp) h

/-- A return stores into three CSRs only. -/
theorem returnFrom_get (s : State) (r : Csr) (h : r ∉ ([.crmd, .merrctl, .tlbrera] : List Csr)) :
    (returnFrom s).csr.get r = s.csr.get r := by
  cases r <;> first | rfl | exact absurd (by simp) h

/-- The winning interrupt is one of the 13. -/
theorem winner_lt (s : State) : s.winner < 13 := by
  unfold State.winner
  by_cases h : s.pending = 0
  · simp [h]
  · rw [Nat.log2_lt]
    · exact s.pending.isLt
    · exact fun e => h (BitVec.eq_of_toNat_eq (by simpa using e))

/-- A privileged instruction runs its body at PLV0 and raises IPE elsewhere. -/
theorem privileged_next {i : Instr} {s t : State} {body : Result} (h : privileged i s body = .next t) :
    (s.plv = 0 ∧ body = .next t) ∨ (s.plv ≠ 0 ∧ t = raise .ipe ⟨some (encode i), 0⟩ s) := by
  unfold privileged at h
  split at h
  · rename_i hp; exact .inl ⟨hp, h⟩
  · rename_i hp; simp [raiseBy] at h; exact .inr ⟨hp, h.symm⟩

/-- An ERTN that completes restores a level the core has. -/
theorem returnFromException_next {s t : State} (h : returnFromException s = .next t) :
    t = returnFrom s ∧ plvLegal s.cfg s.savedPlv = true := by
  unfold returnFromException at h
  split at h
  · rename_i hp; exact ⟨by simpa using h.symm, hp⟩
  · cases h

/-- What an instruction that completes has done. -/
theorem exec_next {i : Instr} {s t : State} (h : exec i s = .next t) :
    (s.plv ≠ 0 ∧ t = raise .ipe ⟨some (encode i), 0⟩ s) ∨
    (∃ rd n, i = .csrrd rd n ∧ s.plv = 0 ∧ csrToGr rd n s = .next t) ∨
    (∃ rd n, i = .csrwr rd n ∧ s.plv = 0 ∧ csrExchange rd n (s.x rd) (BitVec.allOnes 64) s = .next t) ∨
    (∃ rd rj n, i = .csrxchg rd rj n ∧ s.plv = 0 ∧ csrExchange rd n (s.x rd) (s.x rj) s = .next t) ∨
    (i = .ertn ∧ s.plv = 0 ∧ t = returnFrom s ∧ plvLegal s.cfg s.savedPlv = true) ∨
    (∃ k, i = .syscall k ∧ t = raise .sys ⟨some (encode i), 0⟩ s) ∨
    (∃ k, i = .brk k ∧ t = raise .brk ⟨some (encode i), 0⟩ s) := by
  cases i with
  | csrrd rd n =>
    rcases privileged_next h with ⟨hp, hb⟩ | ⟨hp, rfl⟩
    · exact .inr (.inl ⟨rd, n, rfl, hp, hb⟩)
    · exact .inl ⟨hp, rfl⟩
  | csrwr rd n =>
    rcases privileged_next h with ⟨hp, hb⟩ | ⟨hp, rfl⟩
    · exact .inr (.inr (.inl ⟨rd, n, rfl, hp, hb⟩))
    · exact .inl ⟨hp, rfl⟩
  | csrxchg rd rj n =>
    rcases privileged_next h with ⟨hp, hb⟩ | ⟨hp, rfl⟩
    · exact .inr (.inr (.inr (.inl ⟨rd, rj, n, rfl, hp, hb⟩)))
    · exact .inl ⟨hp, rfl⟩
  | ertn =>
    rcases privileged_next h with ⟨hp, hb⟩ | ⟨hp, rfl⟩
    · obtain ⟨rfl, hl⟩ := returnFromException_next hb
      exact .inr (.inr (.inr (.inr (.inl ⟨rfl, hp, rfl, hl⟩))))
    · exact .inl ⟨hp, rfl⟩
  | syscall k =>
    exact .inr (.inr (.inr (.inr (.inr (.inl ⟨k, rfl, by simpa [exec, execSyscall, raiseBy] using h.symm⟩)))))
  | brk k =>
    exact .inr (.inr (.inr (.inr (.inr (.inr ⟨k, rfl, by simpa [exec, execBreak, raiseBy] using h.symm⟩)))))

/-! ### A step -/

/-- What a boundary can be. -/
theorem boundary_cases (s : State) :
    (s.takesInterrupt = true ∧ s.boundary = .trap .int ⟨none, 0⟩) ∨
    (s.takesInterrupt = false ∧ s.da = s.pg ∧ s.boundary = .refuse .undefinedTranslationMode) ∨
    (s.takesInterrupt = false ∧ s.da ≠ s.pg ∧ s.pg = 1 ∧ s.boundary = .refuse .mappedTranslation) ∨
    (s.takesInterrupt = false ∧ s.da ≠ s.pg ∧ s.pg ≠ 1 ∧ getField s.pc 0 2 ≠ 0 ∧
      s.boundary = .trap .adef ⟨none, s.pc⟩) ∨
    (s.takesInterrupt = false ∧ s.da ≠ s.pg ∧ s.pg ≠ 1 ∧ getField s.pc 0 2 = 0 ∧
      ((∃ w, fetchWord s s.pc = some w ∧ s.boundary = .word w) ∨
        (fetchWord s s.pc = none ∧ s.boundary = .refuse (.noProgramWord s.pc)))) := by
  unfold State.boundary
  by_cases h1 : s.takesInterrupt = true
  · exact .inl ⟨h1, by rw [if_pos h1]⟩
  · have h1' : s.takesInterrupt = false := by simpa using h1
    rw [if_neg h1]
    by_cases h2 : s.da = s.pg
    · exact .inr (.inl ⟨h1', h2, by rw [if_pos h2]⟩)
    · rw [if_neg h2]
      by_cases h3 : s.pg = 1
      · exact .inr (.inr (.inl ⟨h1', h2, h3, by rw [if_pos h3]⟩))
      · rw [if_neg h3]
        by_cases h4 : getField s.pc 0 2 = 0
        · refine .inr (.inr (.inr (.inr ⟨h1', h2, h3, h4, ?_⟩)))
          rw [if_neg (not_not.mpr h4)]
          cases hf : fetchWord s s.pc with
          | some w => exact .inl ⟨w, rfl, rfl⟩
          | none => exact .inr ⟨rfl, rfl⟩
        · exact .inr (.inr (.inr (.inl ⟨h1', h2, h3, h4, by rw [if_pos h4]⟩)))

/-- A step that completes takes an interrupt, takes ADEF, or runs the decoded instruction. -/
theorem step_next {s t : State} (h : step s = .next t) :
    (s.sample.takesInterrupt = true ∧ t = raise .int ⟨none, 0⟩ s.sample) ∨
    (s.sample.takesInterrupt = false ∧ getField s.sample.pc 0 2 ≠ 0 ∧ t = raise .adef ⟨none, s.sample.pc⟩ s.sample) ∨
    (∃ w i, s.sample.takesInterrupt = false ∧ fetchWord s.sample s.sample.pc = some w ∧ decode w = .ok i ∧
      exec i s.sample = .next t) := by
  unfold step at h
  rcases boundary_cases s.sample with ⟨hi, hb⟩ | ⟨hi, -, hb⟩ | ⟨hi, -, -, hb⟩ | ⟨hi, -, -, ha, hb⟩ |
    ⟨hi, -, -, -, ⟨w, hf, hb⟩ | ⟨hf, hb⟩⟩
  all_goals rw [hb] at h; simp only [afterBoundary] at h
  · simp at h; exact .inl ⟨hi, h.symm⟩
  · cases h
  · cases h
  · injection h with h; exact .inr (.inl ⟨hi, ha, h.symm⟩)
  · cases hd : decode w with
    | ok i => rw [hd] at h; exact .inr (.inr ⟨w, i, hi, hf, hd, h⟩)
    | error e => rw [hd] at h; cases h
  · cases h

end Sys2Proof.Laws
end

