-- ==== Sys2Proof/Laws/PerInstr.lean ====
section
/-! SUPPORT. The per-instruction family TableRow: the encoding of an instruction has the fixed bits of its row. -/

namespace Sys2Proof.Laws.TableRow

/-- The mask of an instruction's row in `30_encoding.md` R106. -/
def mask : Instr → Word32
  | .csrrd _ _ => 0xFF0003E0
  | .csrwr _ _ => 0xFF0003E0
  | .csrxchg _ _ _ => 0xFF000000
  | .ertn => 0xFFFFFFFF
  | .syscall _ => 0xFFFF8000
  | .brk _ => 0xFFFF8000

/-- The match value of an instruction's row in R106. -/
def row : Instr → Word32
  | .csrrd _ _ => 0x04000000
  | .csrwr _ _ => 0x04000020
  | .csrxchg _ _ _ => 0x04000000
  | .ertn => 0x06483800
  | .syscall _ => 0x002B0000
  | .brk _ => 0x002A0000

/-- `(word & mask) = match` holds of the encoded word. -/
def Statement (i : Instr) : Prop := encode i &&& mask i = row i

theorem csrrd (rd : Reg) (csr : CsrNum) : Statement (.csrrd rd csr) := by
  unfold Statement
  apply BitVec.eq_of_getLsbD_eq
  intro k hk
  simp only [encode, encodeCsrFormat, mask, row, BitVec.getLsbD_and, BitVec.getLsbD_append]
  interval_cases k <;> simp

theorem csrwr (rd : Reg) (csr : CsrNum) : Statement (.csrwr rd csr) := by
  unfold Statement
  apply BitVec.eq_of_getLsbD_eq
  intro k hk
  simp only [encode, encodeCsrFormat, mask, row, BitVec.getLsbD_and, BitVec.getLsbD_append]
  interval_cases k <;> simp

theorem csrxchg (rd rj : Reg) (csr : CsrNum) : Statement (.csrxchg rd rj csr) := by
  unfold Statement
  apply BitVec.eq_of_getLsbD_eq
  intro k hk
  simp only [encode, encodeCsrFormat, mask, row, BitVec.getLsbD_and, BitVec.getLsbD_append]
  interval_cases k <;> simp

theorem ertn : Statement .ertn := by unfold Statement; decide

theorem syscall (code : BitVec 15) : Statement (.syscall code) := by
  unfold Statement
  apply BitVec.eq_of_getLsbD_eq
  intro k hk
  simp only [encode, mask, row, BitVec.getLsbD_and, BitVec.getLsbD_append]
  interval_cases k <;> simp

theorem brk (code : BitVec 15) : Statement (.brk code) := by
  unfold Statement
  apply BitVec.eq_of_getLsbD_eq
  intro k hk
  simp only [encode, mask, row, BitVec.getLsbD_and, BitVec.getLsbD_append]
  interval_cases k <;> simp

end Sys2Proof.Laws.TableRow
end

