-- ==== Sys2Proof/Tests/Slice0.lean ====
section
/-! SUPPORT. The model's own tests. Expected values are those of `95_test_vectors.md` (the vector is named in each
test), or bits written out from the tables of `30_encoding.md`. The `witness_` theorems show that the hypotheses of the
obligations can be met. -/

namespace Sys2Proof.Tests

open Sys2Proof.Machine

/-! ### Well-formedness: the only check, and what it refuses -/

theorem test_csrxchg_rj0_ill_formed : (Instr.csrxchg 4 0 0x30).wellFormed = false := by decide

theorem test_csrxchg_rj1_ill_formed : (Instr.csrxchg 4 1 0x30).wellFormed = false := by decide

theorem test_csrxchg_rj2_well_formed : (Instr.csrxchg 4 2 0x30).wellFormed = true := by decide

/-! ### Decoding: one word per constructor, written out field by field from R101 to R103 -/

/-- opcode, csr_num 0, rj 0, rd 12 -/
theorem test_decode_csrrd :
    decode (0b00000100#8 ++ 0b00000000000000#14 ++ 0b00000#5 ++ 0b01100#5) = .ok (.csrrd 12 0x0) := by decide

/-- opcode, csr_num 0x30, rj 1, rd 4 -/
theorem test_decode_csrwr :
    decode (0b00000100#8 ++ 0b00000000110000#14 ++ 0b00001#5 ++ 0b00100#5) = .ok (.csrwr 4 0x30) := by decide

/-- opcode, csr_num 0x183, rj 2, rd 4 -/
theorem test_decode_csrxchg :
    decode (0b00000100#8 ++ 0b00000110000011#14 ++ 0b00010#5 ++ 0b00100#5) = .ok (.csrxchg 4 2 0x183) := by decide

/-- every bit of ERTN -/
theorem test_decode_ertn : decode 0b00000110010010000011100000000000#32 = .ok .ertn := by decide

/-- opcode 0x56 in bits 31:15, code 0x11 -/
theorem test_decode_syscall : decode (0b00000000001010110#17 ++ 0b000000000010001#15) = .ok (.syscall 0x11) := by decide

/-- opcode 0x54 in bits 31:15, code 5 -/
theorem test_decode_break : decode (0b00000000001010100#17 ++ 0b000000000000101#15) = .ok (.brk 5) := by decide

/-- one bit off ERTN is no instruction (2.1) -/
theorem test_decode_refuses_near_ertn : decode 0x06483801 = .error (.noMeaning 0x06483801) := by decide

/-- a word of the last row of G30 -/
theorem test_decode_refuses_dbcl : decode 0x002A8001 = .error (.outOfScope .dbcl) := by decide

/-- bytes in memory order, and what is left of them -/
theorem test_decode_bytes :
    decodeBytes [0x24, 0xC0, 0x00, 0x04, 0xAA] = .ok (.csrwr 4 0x30, [0xAA]) := by decide

theorem test_decode_bytes_too_short : decodeBytes [0x24, 0xC0, 0x00] = .error .tooShort := by decide

/-! ### One step on a small state -/

/-- The reset state with some CSRs, registers and the pc set. -/
def start (csrs : List (Csr × Word)) (regs : List (Reg × Word)) (pc : Word) : State :=
  regs.foldl (fun s p => s.setX p.1 p.2)
    { State.reset with pc := pc, csr := csrs.foldl (fun k p => k.put p.1 p.2) State.reset.csr }

/-- One step with the word at the pc, and what is read off the next state. -/
def after {α : Type} (s : State) (w : Nat) (f : State → α) : Option α :=
  match step (s.withFetchWord 32 w) with
  | .next t => some (f t)
  | _ => none

/-- vector RD4: the lines are read live -/
theorem test_csrrd_estat :
    after { start [(.estat, 0x000B0001)] [] 0x1C000000 with oracle := [0b01000000001] } 0x04001404
      (fun t => (t.x 4, t.pc)) = some (0x000B0805, 0x1C000004) := by decide

/-- vector RD2: register 0 stays 0 -/
theorem test_csrrd_r0 :
    after (start [(.era, 0x1C000100)] [] 0x1C000000) 0x04001800 (fun t => (t.x 0, t.pc)) =
      some (0, 0x1C000004) := by decide

/-- vector WR1 -/
theorem test_csrwr_save0 :
    after (start [(.save 0, 0xABCD)] [(4, 0x1234)] 0x1C000000) 0x0400C024
      (fun t => (t.csr.get (.save 0), t.x 4)) = some (0x1234, 0xABCD) := by decide

/-- vector WR14: IsMERR and the fixed bits of MERRCTL are not written -/
theorem test_csrwr_merrctl :
    after (start [] [(4, 0xFFFFFFFF)] 0x1C000000) 0x04024024 (fun t => (t.csr.merrctl, t.x 4)) =
      some (0x00001FDC, 0) := by decide

/-- vector XC1 -/
theorem test_csrxchg_save0 :
    after (start [(.save 0, 0x12345678)] [(6, 0xFFFF0000), (7, 0x00FFFF00)] 0x1C000000) 0x0400C0E6
      (fun t => (t.csr.get (.save 0), t.x 6, t.x 7)) = some (0x12FF0078, 0x12345678, 0x00FFFF00) := by decide

/-- vector XC4: rd = rj, both read before rd is written -/
theorem test_csrxchg_same_register :
    after (start [(.save 0, 0x00FF)] [(4, 0x0F0F)] 0x1C000000) 0x0400C084
      (fun t => (t.csr.get (.save 0), t.x 4)) = some (0x0FFF, 0x00FF) := by decide

/-- vector ER6: the TLB refill scene -/
theorem test_ertn_tlb_refill :
    after (start [(.tlbrera, 0x1C000201), (.tlbrprmd, 0x14), (.prmd, 0x3), (.era, 0x1C000100)] [] 0x1C000000) 0x06483800
      (fun t => (t.csr.crmd, t.csr.tlbrera, t.pc)) = some (0x214, 0x1C000200, 0x1C000200) := by decide

/-- vector ER5: IPE at PLV3 -/
theorem test_ertn_at_plv3 :
    after (start [(.crmd, 0x00B), (.eentry, 0x1C001000)] [] 0x1C000200) 0x06483800
      (fun t => (t.csr.prmd, t.csr.crmd, t.ecode, t.csr.era, t.csr.badi, t.pc)) =
      some (0x3, 0x008, 0xE, 0x1C000200, 0x06483800, 0x1C001000) := by decide

/-- vector SY3: vectored entry -/
theorem test_syscall_vectored :
    after (start [(.crmd, 0x00B), (.ecfg, 0x00010000), (.eentry, 0x1C001000)] [] 0x1C000010) 0x002B0000
      (fun t => (t.csr.prmd, t.csr.crmd, t.ecode, t.csr.era, t.csr.badi, t.pc)) =
      some (0x3, 0x008, 0xB, 0x1C000010, 0x002B0000, 0x1C001058) := by decide

/-- vector TE1: PLV, IE and WE cleared, the rest of CRMD kept -/
theorem test_syscall_keeps_rest_of_crmd :
    after (start [(.crmd, 0x3EF), (.eentry, 0x1C001000)] [] 0x1C000010) 0x002B0000
      (fun t => (t.csr.prmd, t.csr.crmd)) = some (0xF, 0x1E8) := by decide

/-- vector BK2 -/
theorem test_break_vectored :
    after (start [(.crmd, 0x00F), (.ecfg, 0x00030000), (.eentry, 0x1C001000)] [] 0x1C000020) 0x002A0000
      (fun t => (t.csr.prmd, t.csr.crmd, t.ecode, t.csr.era, t.csr.badi, t.pc)) =
      some (0x7, 0x008, 0xC, 0x1C000020, 0x002A0000, 0x1C001180) := by decide

/-- vector IN5: the highest-numbered interrupt (TI) wins -/
theorem test_interrupt_vectored :
    after { start [(.crmd, 0x00C), (.ecfg, 0x00010801), (.estat, 0x1), (.eentry, 0x1C010000)] [] 0x1C000010
            with oracle := [0b01000000000] } 0x0400000C
      (fun t => (t.csr.prmd, t.csr.crmd, t.ecode, t.csr.era, t.pc, t.x 12)) =
      some (0x4, 0x008, 0, 0x1C000010, 0x1C010258, 0) := by decide

/-! ### Witnesses: states and operands that meet the hypotheses of the obligations, clause by clause -/

/-- The reset state of another configuration. -/
def startWith (c : Config) : State := State.resetOf c State.blank

/-- A core with PLV0 and PLV3 only. -/
def twoLevels : Config := { Config.default with plvSet := .zeroAndThree }

/-- A core that refuses the CSRs with unknown fields. -/
def refusing : Config := { Config.default with opaquePolicy := .refuse }

/-- An LA64 core. -/
def la64 : Config := { Config.default with arch := .la64, palen := 48 }

theorem witness_DecodeEncodeRoundTrip :
    (Instr.csrxchg 31 2 0x3FFF).wellFormed = true ∧ (Instr.brk 0x7FFF).wellFormed = true := by decide

theorem witness_EncodeDecodeRoundTrip : decode 0x04FFFFFF = .ok (.csrxchg 31 31 0x3FFF) := by decide

theorem witness_CsrFormatHasNoReservedWord :
    (0x06483801#32).extractLsb' 10 22 = (0x06483800#32).extractLsb' 10 22 ∧ 0x06483801#32 ≠ 0x06483800 ∧
    (0x06483BFF#32).extractLsb' 10 22 = (0x06483800#32).extractLsb' 10 22 ∧ 0x06483BFF#32 ≠ 0x06483800 := by decide

theorem witness_OutOfScopeWordsRefusedByName :
    (0xFFC00000, 0x06000000, OutOfScope.cacop) ∈ outOfScopeRows ∧ 0x063FFFFF#32 &&& 0xFFC00000 = 0x06000000 ∧
    (0xFFFF8000, 0x002A8000, OutOfScope.dbcl) ∈ outOfScopeRows ∧ 0x002A8000#32 &&& 0xFFFF8000 = 0x002A8000 := by decide

/-- Reset with ERTN placed at the pc. -/
def withErtn : State := State.reset.withFetchWord 32 0x06483800

theorem witness_FetchIsLittleEndian :
    Memory.read withErtn.mem (physAddr withErtn.cfg 0x1C000000) = some 0x00 ∧
    Memory.read withErtn.mem (physAddr withErtn.cfg 0x1C000000 + 1) = some 0x38 ∧
    Memory.read withErtn.mem (physAddr withErtn.cfg 0x1C000000 + 2) = some 0x48 ∧
    Memory.read withErtn.mem (physAddr withErtn.cfg 0x1C000000 + 3) = some 0x06 := by decide

/-- The address just above the placed word and the one just below it. -/
theorem witness_FetchReadsPlacedWord :
    physAddr State.reset.cfg 0x1C000000 + 4 ≤ 0x1C000004 ∧ 0x1BFFFFFF < physAddr State.reset.cfg 0x1C000000 := by decide

theorem witness_StepRunsDecodedInstruction :
    Fetches withErtn.sample 0x06483800 ∧ decode 0x06483800 = .ok .ertn :=
  ⟨⟨.inl (by decide), by decide, by decide, by decide, by decide⟩, by decide⟩

theorem witness_StepRefusesWordWithoutRow :
    Fetches (State.reset.withFetchWord 32 0x06483801).sample 0x06483801 ∧
      decode 0x06483801 = .error (.noMeaning 0x06483801) :=
  ⟨⟨.inl (by decide), by decide, by decide, by decide, by decide⟩, by decide⟩

theorem witness_StepStopsWithoutProgramWord :
    State.reset.sample.takesInterrupt = false ∧ State.reset.da = 1 ∧ State.reset.pg = 0 ∧
    getField State.reset.pc 0 2 = 0 ∧ fetchWord State.reset State.reset.pc = none := by decide

/-- DA = PG = 0, DA = PG = 1, and DA = 0 with PG = 1. -/
theorem witness_StepRefusesOutsideDirectMode :
    ((start [(.crmd, 0x000)] [] 0x1C000000).sample.takesInterrupt = false ∧
      (start [(.crmd, 0x000)] [] 0x1C000000).da = (start [(.crmd, 0x000)] [] 0x1C000000).pg) ∧
    ((start [(.crmd, 0x018)] [] 0x1C000000).sample.takesInterrupt = false ∧
      (start [(.crmd, 0x018)] [] 0x1C000000).da = (start [(.crmd, 0x018)] [] 0x1C000000).pg) ∧
    ((start [(.crmd, 0x010)] [] 0x1C000000).sample.takesInterrupt = false ∧
      (start [(.crmd, 0x010)] [] 0x1C000000).da = 0 ∧ (start [(.crmd, 0x010)] [] 0x1C000000).pg = 1) := by decide

/-- Interrupt 0 alone, interrupt 11 over interrupt 0 (vector IN5), interrupt 12 alone. -/
theorem witness_StepTakesInterrupt :
    (let s := start [(.crmd, 0x00C), (.ecfg, 0x1FFF), (.estat, 0x1)] [] 0x1C000012
     s.ie = 1 ∧ s.sample.is.getLsbD 0 = true ∧ s.lie.getLsbD 0 = true ∧
       ∀ j < 13, 0 < j → s.sample.is.getLsbD j = false ∨ s.lie.getLsbD j = false) ∧
    (let s := { start [(.crmd, 0x00C), (.ecfg, 0x10801), (.estat, 0x1)] [] 0x1C000010 with oracle := [0x200] }
     s.ie = 1 ∧ s.sample.is.getLsbD 11 = true ∧ s.lie.getLsbD 11 = true ∧
       ∀ j < 13, 11 < j → s.sample.is.getLsbD j = false ∨ s.lie.getLsbD j = false) ∧
    (let s := { start [(.crmd, 0x00C), (.ecfg, 0x1000)] [] 0x1C000010 with lines := 0x400 }
     s.ie = 1 ∧ s.sample.is.getLsbD 12 = true ∧ s.lie.getLsbD 12 = true) := by decide

theorem witness_StepRaisesAdefOnMisalignedPc :
    (start [] [] 0x1C000102).sample.takesInterrupt = false ∧ (start [] [] 0x1C000102).da = 1 ∧
    (start [] [] 0x1C000102).pg = 0 ∧ getField (start [] [] 0x1C000102).pc 0 2 ≠ 0 := by decide

/-- Both ends of the SAVE numbers, and a row at each end of the table. -/
theorem witness_CsrNumbersAndWidths :
    (0x0, Csr.crmd, false) ∈ inventoryLow ++ inventoryHigh ∧ (0x502, Csr.dsave, true) ∈ inventoryLow ++ inventoryHigh ∧
    (0 : Fin 16).val < Config.default.nsave ∧ (7 : Fin 16).val < Config.default.nsave ∧
    ¬ (8 : Fin 16).val < Config.default.nsave ∧ csrOfNum Config.default 0x37 = some (.save 7) := by decide

/-- A register with known fields, one with unknown fields, and the last word below the top of the address space. -/
theorem witness_CsrrdReadsCsr :
    (start [] [] 0xFFFFFFF8).plv = 0 ∧ csrOfNum Config.default 0x0 = some .crmd ∧ accessible Config.default .crmd ∧
    csrOfNum Config.default 0x502 = some .dsave ∧ accessible Config.default .dsave ∧
    (start [] [] 0xFFFFFFF8).pc.toNat + 4 < 2 ^ Config.default.grlen := by unfold accessible; decide

/-- Each register of which `storable` asks something, and one of which it asks nothing. -/
theorem witness_CsrwrWritesWritableBits :
    (let s := start [] [(4, 0xB)] 0x1C000000
     s.plv = 0 ∧ csrOfNum s.cfg 0x0 = some .crmd ∧ accessible s.cfg .crmd ∧ storable s.cfg .crmd (s.x 4) ∧
       csrOfNum s.cfg 0x3 = some .misc ∧ accessible s.cfg .misc ∧ storable s.cfg .misc (s.x 5) ∧
       csrOfNum s.cfg 0x37 = some (.save 7) ∧ accessible s.cfg (.save 7) ∧ storable s.cfg (.save 7) (s.x 4) ∧
       s.pc.toNat + 4 < 2 ^ s.cfg.grlen) := by unfold accessible storable; decide

theorem witness_CsrxchgWritesMaskedBits :
    (let s := start [] [(8, 4), (9, 4)] 0x1C000000
     s.plv = 0 ∧ csrOfNum s.cfg 0x0 = some .crmd ∧ accessible s.cfg .crmd ∧
       storable s.cfg .crmd ((s.csr.get .crmd &&& ~~~s.x 9) ||| (s.x 8 &&& s.x 9)) ∧
       s.pc.toNat + 4 < 2 ^ s.cfg.grlen) := by unfold accessible storable; decide

/-- 0x3FFF names no register, 0x3F names SAVE15, which a core with 8 SAVE registers lacks. -/
theorem witness_UndefinedCsrReadsFreeValue :
    State.reset.plv = 0 ∧ (∀ r : Csr, r.num = (0x3FFF : CsrNum).toNat → r.implemented State.reset.cfg = false) ∧
    (∀ r : Csr, r.num = (0x3F : CsrNum).toNat → r.implemented State.reset.cfg = false) ∧
    State.reset.pc.toNat + 4 < 2 ^ State.reset.cfg.grlen ∧
    (Instr.csrwr 4 0x3FFF = .csrrd 4 0x3FFF ∨ Instr.csrwr 4 0x3FFF = .csrwr 4 0x3FFF ∨
      Instr.csrwr 4 0x3FFF = .csrxchg 4 5 0x3FFF) := by
  refine ⟨by decide, fun r h => ?_, fun r h => ?_, by decide, by decide⟩
  · cases r with
    | save n => exfalso; have := n.isLt; simp [Csr.num] at h; omega
    | _ => revert h; decide
  · cases r with
    | save n => have e : n = 15 := Fin.ext (by simp [Csr.num] at h; omega)
                subst e; decide
    | _ => revert h; decide

/-- What an instruction leaves, if it completes. -/
def completes (i : Instr) (s : State) (p : State → Bool) : Bool :=
  match exec i s with
  | .next t => p t
  | _ => false

/-- An instruction that completes answers a next state. -/
theorem completes_next {i : Instr} {s : State} {p : State → Bool} (h : completes i s p = true) :
    ∃ t, exec i s = .next t ∧ p t = true := by
  unfold completes at h
  split at h
  · rename_i t e; exact ⟨t, e, h⟩
  · cases h

/-- LA32 and LA64, each with an answer (vector RD3). -/
theorem witness_CsrrdSignExtends :
    (let s := start [(.badi, 0x80000000)] [] 0x1C000000
     s.plv = 0 ∧ (5 : Reg) ≠ 0 ∧ csrOfNum s.cfg 0x8 = some .badi ∧ Csr.wide .badi = false ∧
       completes (.csrrd 5 0x8) s (fun t => t.x 5 == 0x80000000) = true) ∧
    (let s := { startWith la64 with csr := (startWith la64).csr.put .badi 0x80000000 }
     s.plv = 0 ∧ csrOfNum s.cfg 0x8 = some .badi ∧
       completes (.csrrd 5 0x8) s (fun t => t.x 5 == 0xFFFFFFFF80000000) = true) := by decide

theorem witness_CsrrdReservedBitsReadZero :
    State.reset.plv = 0 ∧ csrOfNum State.reset.cfg 0x8A = some .tlbrera ∧
    (∃ t, exec (.csrrd 4 0x8A) State.reset = .next t ∧ t.pc == 0x1C000004) ∧
    readsZero State.reset.cfg .tlbrera 1 = true :=
  ⟨by decide, by decide, completes_next (by decide), by decide⟩

theorem witness_CsrrdOfEstatShowsLines :
    State.reset.plv = 0 ∧ (4 : Reg) ≠ 0 ∧ State.reset.pc.toNat + 4 < 2 ^ State.reset.cfg.grlen := by decide

/-- A full write of ECFG and the read after it; bit 18 is writable, bit 13 is not. -/
theorem witness_CsrwrThenCsrrdReadsBack :
    csrOfNum State.reset.cfg 0x4 = some .ecfg ∧ Csr.ecfg ≠ .estat ∧ State.reset.plv = 0 ∧ (5 : Reg) ≠ 0 ∧
    (18 < 32 ∨ Csr.wide .ecfg = true ∧ 18 < State.reset.cfg.grlen) ∧
    ∃ t, exec (.csrwr 4 0x4) (start [] [(4, 0xFFFFFFFF)] 0x1C000000) = .next t ∧
      (t.plv == 0 && completes (.csrrd 5 0x4) t (fun u => u.x 5 == 0x00071FFF)) = true :=
  ⟨by decide, by decide, by decide, by decide, by decide, completes_next (by decide)⟩

/-- The law check of vector XC1. -/
theorem witness_CsrxchgTwiceRestores :
    csrOfNum State.reset.cfg 0x30 = some (.save 0) ∧ State.reset.plv = 0 ∧ (6 : Reg) ≠ 0 ∧ (6 : Reg) ≠ 7 ∧
    ∃ t, exec (.csrxchg 6 7 0x30)
        (start [(.save 0, 0x12345678)] [(6, 0xFFFF0000), (7, 0x00FFFF00)] 0x1C000000) = .next t ∧
      (t.plv == 0 && completes (.csrxchg 6 7 0x30) t (fun u => u.csr.get (.save 0) == 0x12345678)) = true :=
  ⟨by decide, by decide, by decide, by decide, completes_next (by decide)⟩

/-- Vector XC4. -/
theorem witness_CsrxchgIdiomSetsBits :
    (let s := start [(.save 0, 0x00FF)] [(4, 0x0F0F)] 0x1C000000
     s.plv = 0 ∧ csrOfNum s.cfg 0x30 = some (.save 0) ∧ accessible s.cfg (.save 0) ∧
       storable s.cfg (.save 0) (s.csr.get (.save 0) ||| s.x 4) ∧ (Instr.csrxchg 4 4 0x30).wellFormed = true ∧
       s.pc.toNat + 4 < 2 ^ s.cfg.grlen) := by unfold accessible storable; decide

/-- A state with a program word in memory meets the invariant. It is the premise of StepKeepsInvariant and of
CsrWriteUnderZeroMaskIsIdentity. -/
theorem witness_invariant : Inv withErtn where
  memory := by decide
  zeroRegister := by decide
  gprWidth := by decide
  pcWidth := by decide
  reservedBits r := by cases r <;> first | decide | (rename_i n; revert n; decide)
  legalPlv := by decide
  noMachineError := by decide
  miscZero := by decide

theorem witness_CsrWriteUnderZeroMaskIsIdentity :
    Inv withErtn ∧ csrOfNum withErtn.cfg 0x3 = some .misc ∧ accessible withErtn.cfg .misc :=
  ⟨witness_invariant, by decide, fun _ => rfl⟩

/-- A CSRXCHG of CRMD that sets IE with an interrupt pending (vector IN8), the same CSRWR with the interrupt still to
come on the lines, CSRWRs of CRMD to DA = PG (vector WR9) and to mapped mode, and one to PLV3 with a CSRRD behind it. -/
theorem witness_CsrWriteGovernsNextBoundary :
    (let s := start [(.ecfg, 0x1), (.estat, 0x1)] [(8, 4), (9, 4)] 0x1C000010
     s.plv = 0 ∧ completes (.csrxchg 8 9 0x0) s (fun t => t.ie == 1 && t.sample.pending != 0) = true) ∧
    (let s := { start [(.ecfg, 0x4)] [(8, 0xC)] 0x1C000010 with oracle := [0x1] }
     s.plv = 0 ∧ completes (.csrwr 8 0x0) s (fun t => t.ie == 1 && t.sample.pending != 0) = true) ∧
    (let s := start [] [(4, 0x3FF)] 0x1C000000
     s.plv = 0 ∧ completes (.csrwr 4 0x0) s (fun t => !t.sample.takesInterrupt && t.da == t.pg) = true) ∧
    (let s := start [] [(4, 0x010)] 0x1C000000
     s.plv = 0 ∧
       completes (.csrwr 4 0x0) s (fun t => !t.sample.takesInterrupt && t.da == 0 && t.pg == 1) = true) ∧
    (let s := placeWord (start [] [(4, 0xB)] 0x1C000000) 0x1C000004 0x04000006
     s.plv = 0 ∧
       completes (.csrwr 4 0x0) s (fun t => t.plv != 0 && t.sample.ie == 0 && t.sample.da == 1 && t.sample.pg == 0 &&
         getField t.sample.pc 0 2 == 0 && fetchWord t.sample t.sample.pc == some 0x04000006) = true ∧
       decode 0x04000006 = .ok (.csrrd 6 0x0)) := by decide

theorem witness_UnknownFieldsRefusedByPolicy :
    (startWith refusing).plv = 0 ∧ csrOfNum refusing 0x180 = some .dmw0 ∧ Csr.fieldsUnknown .dmw0 = true ∧
    refusing.opaquePolicy = .refuse ∧
    (Instr.csrwr 4 0x180 = .csrrd 4 0x180 ∨ Instr.csrwr 4 0x180 = .csrwr 4 0x180 ∨
      Instr.csrwr 4 0x180 = .csrxchg 4 5 0x180) := by decide

/-- Both levels that the core lacks, in x[4] and x[5], and each in a scene of ERTN. -/
theorem witness_PlvNotImplementedRefused :
    (let s := (startWith twoLevels).setX 4 0x9 |>.setX 5 0xA
     s.plv = 0 ∧ s.cfg.plvSet = .zeroAndThree ∧ getField (s.x 4) 0 2 = 1 ∧ getField (s.x 5) 0 2 = 2 ∧
       1 = getField ((s.csr.get .crmd &&& ~~~s.x 4) ||| (s.x 4 &&& s.x 4)) 0 2 ∧
       2 = getField ((s.csr.get .crmd &&& ~~~s.x 5) ||| (s.x 5 &&& s.x 5)) 0 2 ∧
       { s with csr := { s.csr with prmd := 1 } }.savedPlv = 1 ∧
       { s with csr := { s.csr with tlbrera := 1, tlbrprmd := 2 } }.savedPlv = 2) := by decide

theorem witness_MiscRelaxationRefused :
    (start [] [(4, 1)] 0x1C000000).plv = 0 ∧ State.reset.cfg.opaquePolicy = .plainStorage ∧
    ((start [] [(4, 1)] 0x1C000000).x 4).setWidth 32 ≠ 0#32 ∧
    (let s := start [] [(4, 0x80000000)] 0x1C000000
     ((s.csr.get .misc &&& ~~~s.x 4) ||| (s.x 4 &&& s.x 4)).setWidth 32 ≠ 0#32) := by decide

theorem witness_PcPastTopRefused :
    (start [] [] 0xFFFFFFFC).plv = 0 ∧ csrOfNum State.reset.cfg 0x6 = some .era ∧ accessible State.reset.cfg .era ∧
    2 ^ (start [] [] 0xFFFFFFFC).cfg.grlen ≤ (start [] [] 0xFFFFFFFC).pc.toNat + 4 ∧
    (let s := start [] [] 0xFFFFFFFC
     storable s.cfg .era (s.x 4) ∧ storable s.cfg .era ((s.csr.get .era &&& ~~~s.x 5) ||| (s.x 4 &&& s.x 5))) := by
  unfold accessible storable; decide

/-- PLV1, PLV2 and PLV3; UserModeStepsOnlyTrap has the same premise, met with a step that completes. -/
theorem witness_PrivilegedInstructionsRaiseIpe :
    (start [(.crmd, 0x009)] [] 0x1C000000).plv ≠ 0 ∧ (start [(.crmd, 0x00A)] [] 0x1C000000).plv ≠ 0 ∧
    (start [(.crmd, 0x00B)] [] 0x1C000000).plv ≠ 0 ∧
    (Instr.ertn = .csrrd 4 0 ∨ Instr.ertn = .csrwr 4 0 ∨ Instr.ertn = .csrxchg 4 5 0 ∨ Instr.ertn = .ertn) := by decide

/-- Each of the three scenes (vectors ER7, ER6, ER1). ErtnSceneEffects has the same premises. -/
theorem witness_ErtnRestoresInnermostScene :
    (let s := start [(.merrctl, 0x9D), (.merrera, 0x1C000300), (.tlbrera, 0x1C000201)] [] 0x1C000000
     s.plv = 0 ∧ plvLegal s.cfg s.savedPlv = true ∧ s.isMerr = 1) ∧
    (let s := start [(.tlbrera, 0x1C000201), (.tlbrprmd, 0x14)] [] 0x1C000000
     s.plv = 0 ∧ plvLegal s.cfg s.savedPlv = true ∧ s.isMerr = 0 ∧ s.isTlbr = 1) ∧
    (let s := start [(.prmd, 0x7), (.era, 0x1C000100)] [] 0x1C000000
     s.plv = 0 ∧ plvLegal s.cfg s.savedPlv = true ∧ s.isMerr = 0 ∧ s.isTlbr = 0) := by decide

theorem witness_ErtnUndoesOrdinaryEntry :
    (let s := start [(.crmd, 0x00F)] [] 0x1C000010
     (Exception.codes .sys).isSome = true ∧ (Exception.codes .int).isSome = true ∧ s.isMerr = 0 ∧ s.isTlbr = 0 ∧
       plvLegal s.cfg s.plv = true) := by decide

theorem witness_ErtnUndoesTlbRefillEntry :
    (let s := start [(.crmd, 0x017)] [] 0x1C000010
     s.isMerr = 0 ∧ s.da = 0 ∧ s.pg = 1 ∧ plvLegal s.cfg s.plv = true ∧ getField s.pc 0 2 = 0) := by decide

/-- The premises of OrdinaryEntryEffect, TlbRefillEntryEffect and SynchronousExceptionsWriteBadi. -/
theorem witness_entries :
    Exception.codes .ipe = some (0xE, 0) ∧ Exception.ipe ≠ .int ∧ Exception.codes .int = some (0, 0) ∧
    (TrapInfo.mk (some 0x06483800) 0x1C000000).inst = some 0x06483800 := by decide

/-- An exception that writes BADV and one that does not. -/
theorem witness_BadvWrittenByAddressErrors :
    Exception.adef ∈ ([.adef, .adem, .ale, .bce, .pil, .pis, .pif, .pme, .pnr, .pnx, .ppi] : List Exception) ∧
    Exception.tlbr ∉ ([.adef, .adem, .ale, .bce, .pil, .pis, .pif, .pme, .pnr, .pnx, .ppi] : List Exception) := by decide

/-- Each alternative of the first clause is met by its own exception; the second is met by a step that completes. -/
theorem witness_FpeVfpeWpemRecordedButNeverRaised :
    (TrapInfo.mk (some 0x06483800) 0).inst = some 0x06483800 ∧
    (Exception.fpe = .fpe ∨ Exception.fpe = .vfpe ∨ Exception.fpe = .wpem) ∧
    (Exception.vfpe = .fpe ∨ Exception.vfpe = .vfpe ∨ Exception.vfpe = .wpem) ∧
    (Exception.wpem = .fpe ∨ Exception.wpem = .vfpe ∨ Exception.wpem = .wpem) ∧
    after (start [] [] 0x1C000000) 0x002B0011 (fun t => t.ecode) = some 0xB := by decide

/-- Whether a step is refused for the reason given. -/
def refuses (s : State) (r : Refusal) : Bool :=
  match step s with
  | .refused q => q == r
  | _ => false

/-- FPD, SXD and ASXD meet the first clause each; the second needs a step from a state that holds such a code. -/
theorem witness_UnitExceptionsRecordedButNeverRaised :
    (TrapInfo.mk (some 0x06483800) 0).inst = some 0x06483800 ∧
    (Exception.fpd = .fpd ∨ Exception.fpd = .sxd ∨ Exception.fpd = .asxd) ∧
    (Exception.sxd = .fpd ∨ Exception.sxd = .sxd ∨ Exception.sxd = .asxd) ∧
    (Exception.asxd = .fpd ∨ Exception.asxd = .sxd ∨ Exception.asxd = .asxd) ∧
    after (start [(.estat, 0x00110000)] [] 0x1C000000) 0x06483800 (fun t => t.ecode) = some 0x11 := by decide

/-- The base 0x1C001000 and the offset of ADEF at VS 7 share a bit, and so do 0x1C000400 and the offset of SWI0 at VS 2:
the entry is the base (vectors EN1 and EN2). -/
theorem test_entry_overlap_is_or :
    (start [(.ecfg, 0x00070000), (.eentry, 0x1C001000)] [] 0x1C000000).entry 0x8 = 0x1C001000 ∧
    (start [(.ecfg, 0x00020000), (.eentry, 0x1C000400)] [] 0x1C000000).entry 64 = 0x1C000400 := by decide

/-- A fetch where nothing was placed is refused (`70_reset_and_hazards.md` R233 line 5). -/
theorem test_no_program_word_is_refused : refuses State.reset (.noProgramWord 0x1C000000) = true := by decide

/-- Flat mode, and vectored mode with a base apart from the offset (`60_exceptions.md` R196). -/
theorem witness_EntryAddressIsBasePlusOffset :
    (start [] [] 0x1C000000).vs = 0 ∧
    (let s := start [(.ecfg, 0x00070000), (.eentry, 0x1C010000)] [] 0x1C000000
     s.vs ≠ 0 ∧ s.csrValue .eentry &&& BitVec.ofNat 64 (2 ^ (s.vs.toNat + 2) * 76) = 0) := by decide

/-- A step that completes, if there is one. -/
def steps (s : State) (p : State → Bool) : Bool :=
  match step s with
  | .next t => p t
  | _ => false

/-- A step that completes answers a next state. -/
theorem steps_next {s : State} {p : State → Bool} (h : steps s p = true) : ∃ t, step s = .next t ∧ p t = true := by
  unfold steps at h
  split at h
  · rename_i t e; exact ⟨t, e, h⟩
  · cases h

/-- Reset with ERTN at the pc completes a step. ProgramAndConfigurationConstant has the same premise. -/
theorem witness_StepKeepsInvariant :
    Inv withErtn ∧ ∃ t, step withErtn = .next t ∧ (t.pc == 0) = true :=
  ⟨witness_invariant, steps_next (by decide)⟩

/-- Configurations in range: the default one, and an LA64 one with a reset pc above bit 31. -/
theorem witness_ResetHasInvariant :
    Config.default.wf = true ∧ { la64 with resetPc := 0x900000001C000000 }.wf = true := by decide

theorem witness_UserModeStepsOnlyTrap :
    (start [(.crmd, 0x00B)] [] 0x1C000000).plv ≠ 0 ∧
    ∃ t, step ((start [(.crmd, 0x00B)] [] 0x1C000000).withFetchWord 32 0x06483800) = .next t ∧
      (t.ecode == 0xE) = true :=
  ⟨by decide, steps_next (by decide)⟩

/-- An exception entry from PLV3, an ERTN to PLV3, a CSRWR of CRMD to PLV3 (vectors ER5, ER1, WR8). -/
theorem witness_PrivilegeLevelChangesOnlyThreeWays :
    steps ((start [(.crmd, 0x00B)] [] 0x1C000000).withFetchWord 32 0x06483800) (fun t => t.plv == 0) = true ∧
    steps ((start [(.prmd, 0x7)] [] 0x1C000000).withFetchWord 32 0x06483800) (fun t => t.plv == 3) = true ∧
    steps ((start [] [(4, 0xB)] 0x1C000000).withFetchWord 32 0x04000024) (fun t => t.plv == 3) = true := by decide

/-- Vector WR6 changes ECFG. -/
theorem witness_CsrsChangeOnlyByNamedWrite :
    Csr.ecfg ∉ ([.prmd, .crmd, .estat, .era, .badv, .badi, .merrctl, .tlbrera] : List Csr) ∧
    ∃ t, step ((start [] [(5, 0xFFFFFFFF)] 0x1C000000).withFetchWord 32 0x04001025) = .next t ∧
      (t.csr.get .ecfg != 0) = true :=
  ⟨by decide, steps_next (by decide)⟩

/-- A machine whose END_PC is 0, which ERTN reaches from reset. -/
def endsAtZero : State := { withErtn with cfg := { Config.default with endPc := some 0 } }

/-- What a run leaves, if it ends in a state. -/
def runs (k : Nat) (s : State) (p : State → Bool) : Bool :=
  match runToEnd k s with
  | .next t => p t
  | _ => false

/-- Away from END_PC with a step that completes and with one that is refused, and at END_PC, where a step would be
refused. -/
theorem witness_RunEndsAtEndPc :
    endsAtZero.cfg.endPc ≠ some endsAtZero.pc ∧ steps endsAtZero (fun t => t.cfg.endPc == some t.pc) = true ∧
    runs 2 endsAtZero (fun t => t.pc == 0) = true ∧
    State.reset.cfg.endPc ≠ some State.reset.pc ∧ refuses State.reset (.noProgramWord 0x1C000000) = true ∧
    { endsAtZero with pc := 0 }.cfg.endPc = some { endsAtZero with pc := 0 }.pc := by decide

end Sys2Proof.Tests
end

section
/-! SUPPORT. CSRXCHG (`40_csr_access.md` R125) as one equation on states, and the idiom of `30_encoding.md` R111. -/

namespace Sys2Proof.Proofs

open Sys2Proof.Machine Sys2Proof.Laws

/-! ### Masks bit by bit -/

/-- The GRLEN mask has a 1 in exactly the bits below GRLEN. -/
theorem getLsbD_grMask (c : Config) (b : Nat) : (grMask c).getLsbD b = decide (b < c.grlen) := by
  have low (n : Nat) (hn : n ≤ 64) : (BitVec.ofNat 64 (2 ^ n - 1)).getLsbD b = decide (b < n) := by
    rw [BitVec.getLsbD_ofNat, Nat.testBit_two_pow_sub_one]
    by_cases hb : b < n
    · simp [hb, show b < 64 by omega]
    · simp [hb]
  unfold grMask Config.grlen
  cases c.arch with
  | la32 => exact low 32 (by decide)
  | la64 => exact low 64 (by decide)

/-- The bits of the width of a register. -/
theorem getLsbD_widthMask (c : Config) (r : Csr) (b : Nat) :
    (r.widthMask c).getLsbD b = if r.wide then decide (b < c.grlen) else decide (b < 32) := by
  unfold Csr.widthMask
  split
  · exact getLsbD_grMask c b
  · exact getLsbD_grMask { c with arch := .la32 } b

/-- A GRLEN-bit quantity fits into its container. -/
theorem grlen_le (c : Config) : c.grlen ≤ 64 := by
  unfold Config.grlen; cases c.arch <;> decide

/-- A mask cut to GRLEN bits. -/
theorem getLsbD_grMask_and {c : Config} {m : Word} {b : Nat} {p : Bool} (h : m.getLsbD b = p) :
    (grMask c &&& m).getLsbD b = (p && decide (b < c.grlen)) := by
  rw [BitVec.getLsbD_and, getLsbD_grMask, h, Bool.and_comm]

/-- No bit outside the width of a register is software-writable. -/
theorem softwareWritable_lt {c : Config} {r : Csr} {b : Nat} (h : softwareWritable c r b = true) :
    b < if r.wide then c.grlen else 32 := by
  cases r with
  | crmd | prmd | ecfg | estat | badi | tlbrprmd | merrctl =>
    simp [softwareWritable, Csr.wide] at h ⊢ <;> omega
  | eentry | tlbrentry | tlbrera =>
    simp [softwareWritable] at h
    exact h.2
  | _ => exact of_decide_eq_true h

theorem softwareWritable_eq_false {c : Config} {r : Csr} {b : Nat} (h : (if r.wide then c.grlen else 32) ≤ b) :
    softwareWritable c r b = false :=
  Bool.eq_false_iff.mpr fun hw => Nat.not_lt.mpr h (softwareWritable_lt hw)

/-- `wmask` has a 1 in exactly the bits that the field tables let software write (`10_state.md` R16). -/
theorem getLsbD_writeMask (c : Config) (r : Csr) (b : Nat) : (r.writeMask c).getLsbD b = softwareWritable c r b := by
  by_cases hb : b < 64
  · cases r with
    | crmd | prmd | tlbrprmd | merrctl =>
      simp only [Csr.writeMask, Csr.fieldMask, watchMask, softwareWritable]
      cases c.watch <;> (revert b; decide)
    | ecfg | estat | badi =>
      simp only [Csr.writeMask, Csr.fieldMask, softwareWritable]
      revert b; decide
    | eentry =>
      have low : (BitVec.allOnes 64 <<< c.eentryZeroBits).getLsbD b = decide (c.eentryZeroBits ≤ b) := by
        have hlow : b - c.eentryZeroBits < 64 := by omega
        simp only [BitVec.getLsbD_shiftLeft, BitVec.getLsbD_allOnes, hb, hlow]
        grind
      exact getLsbD_grMask_and low
    | tlbrentry =>
      have low : (~~~0xFFF : Word).getLsbD b = decide (12 ≤ b) := by revert b; decide
      exact getLsbD_grMask_and low
    | tlbrera =>
      have low : (~~~0x2 : Word).getLsbD b = decide (b ≠ 1) := by revert b; decide
      exact getLsbD_grMask_and low
    | _ => exact getLsbD_widthMask c _ b
  · have hwidth : (if r.wide then c.grlen else 32) ≤ b := by
      have := grlen_le c
      split <;> omega
    rw [softwareWritable_eq_false hwidth, BitVec.getLsbD_of_ge _ b (Nat.not_lt.mp hb)]

/-! ### The masked write -/

/-- The bits selected come from the new value, the others from the old one (R122). -/
theorem getLsbD_mergeMasked (old v w : Word) (b : Nat) :
    (mergeMasked old v w).getLsbD b = if w.getLsbD b then v.getLsbD b else old.getLsbD b := by
  unfold mergeMasked
  by_cases hb : b < 64
  · simp only [BitVec.getLsbD_or, BitVec.getLsbD_and, BitVec.getLsbD_not, hb]
    cases w.getLsbD b <;> simp
  · simp [BitVec.getLsbD_of_ge _ b (Nat.not_lt.mp hb)]

/-- R111: a value under itself as the mask only sets bits, `(old & ~v) | (v & v) = old | v`. -/
theorem mergeMasked_self (old v : Word) : mergeMasked old v v = old ||| v := by
  apply BitVec.eq_of_getLsbD_eq
  intro b hb
  rw [getLsbD_mergeMasked, BitVec.getLsbD_or]
  cases v.getLsbD b <;> simp

/-- A 32-bit register holds 0 above bit 31. -/
theorem csrs_getLsbD_high (k : Csrs) {r : Csr} (hr : r.wide = false) {b : Nat} (hb : 32 ≤ b) :
    (k.get r).getLsbD b = false :=
  Nat.testBit_lt_two_pow (Nat.lt_of_lt_of_le (csrs_get_width k r hr) (Nat.pow_le_pow_right (by decide) hb))

/-- The contents that `csr_write` gives a register: the software-writable bits under the mask from the new value, every
other bit kept. -/
def written (s : State) (r : Csr) (v m : Word) : Word := mergeMasked (s.csr.get r) v (r.writeMask s.cfg &&& m)

theorem getLsbD_written (s : State) (r : Csr) (v m : Word) (b : Nat) :
    (written s r v m).getLsbD b =
      if softwareWritable s.cfg r b && m.getLsbD b then v.getLsbD b else (s.csr.get r).getLsbD b := by
  rw [written, getLsbD_mergeMasked, BitVec.getLsbD_and, getLsbD_writeMask]

/-- `csr_write` gives a 32-bit register no bit above bit 31. -/
theorem getLsbD_written_high (s : State) {r : Csr} (v m : Word) (hr : r.wide = false) {b : Nat} (hb : 32 ≤ b) :
    (written s r v m).getLsbD b = false := by
  have hs : softwareWritable s.cfg r b = false := softwareWritable_eq_false (by simpa [hr] using hb)
  rw [getLsbD_written, hs, csrs_getLsbD_high s.csr hr hb]
  rfl

/-- A register holds the whole of what `csr_write` gives it: nothing is cut off by its width. -/
theorem get_put_written (s : State) (r : Csr) (v m : Word) :
    (s.csr.put r (written s r v m)).get r = written s r v m := by
  rw [csrs_get_put_same]
  cases hw : r.wide with
  | true => rfl
  | false =>
    apply BitVec.eq_of_getLsbD_eq
    intro b hb
    by_cases h32 : b < 32
    · simp [hb, h32]
    · simp [h32, getLsbD_written_high s v m hw (Nat.not_lt.mp h32)]

/-- At a software-writable bit the writable mask takes nothing from a masked write. -/
theorem getLsbD_written_of_writable {s : State} {r : Csr} {b : Nat} (v m : Word)
    (h : softwareWritable s.cfg r b = true) :
    (written s r v m).getLsbD b = (mergeMasked (s.csr.get r) v m).getLsbD b := by
  rw [getLsbD_written, getLsbD_mergeMasked, h, Bool.true_and]

/-- Where the masked value is storable, what `csr_write` gives the register is accepted: PLV and MISC are writable in
full, so the writable mask takes nothing from what `storable` speaks of. -/
theorem csrStore_written {s : State} {r : Csr} {v m : Word} (h : storable s.cfg r (mergeMasked (s.csr.get r) v m)) :
    csrStore r (written s r v m) s = .ok { s with csr := s.csr.put r (written s r v m) } := by
  obtain ⟨hplv, hmisc⟩ := h
  apply csrStore_legal
  · rintro rfl
    suffices hfield : getField (written s .crmd v m) 0 2 = getField (mergeMasked (s.csr.get .crmd) v m) 0 2 from
      hfield ▸ hplv rfl
    apply BitVec.eq_of_getLsbD_eq
    intro b hb
    have hw : softwareWritable s.cfg .crmd (0 + b) = true := by simp [softwareWritable]; omega
    rw [getLsbD_getField, getLsbD_getField, getLsbD_written_of_writable v m hw]
  · rintro rfl
    apply BitVec.eq_of_getLsbD_eq
    intro b hb
    by_cases h32 : b < 32
    · have hw : softwareWritable s.cfg .misc b = true := decide_eq_true h32
      have hbit := congrArg (·.getLsbD b) (hmisc rfl)
      rw [getLsbD_written_of_writable v m hw]
      simpa [h32] using hbit
    · exact (getLsbD_written_high s v m rfl (Nat.not_lt.mp h32)).trans BitVec.getLsbD_zero.symm

/-! ### The old value -/

/-- A value without a bit outside GRLEN is not changed by cutting it to GRLEN bits. -/
theorem narrow_eq_self {c : Config} {v : Word} (h : v &&& ~~~grMask c = 0) : narrow c v = v := by
  have hsplit : v = (v &&& grMask c) ||| (v &&& ~~~grMask c) := by
    rw [← BitVec.and_or_distrib_left, BitVec.or_not_self, BitVec.and_allOnes]
  exact (hsplit.trans (by rw [h]; exact BitVec.or_zero)).symm

/-- A 32-bit value extended to GRLEN bits has GRLEN bits. -/
theorem narrow_sext32 (c : Config) (w : Word32) : narrow c (sext32 c w) = sext32 c w := by
  apply BitVec.eq_of_getLsbD_eq
  intro b hb
  rw [narrow, BitVec.getLsbD_and, getLsbD_grMask]
  unfold sext32 Config.grlen
  cases c.arch with
  | la32 =>
    by_cases h32 : b < 32
    · simp [h32]
    · simp [h32, BitVec.getLsbD_of_ge w b (Nat.not_lt.mp h32)]
  | la64 => simp [hb]

/-- What a CSR gives a general register has GRLEN bits (`10_state.md` R14). -/
theorem narrow_csrForGr (s : State) (r : Csr) : narrow s.cfg (s.csrForGr r) = s.csrForGr r := by
  unfold State.csrForGr
  split
  · next hw => exact narrow_eq_self (csrValue_fits s r hw)
  · exact narrow_sext32 s.cfg _

/-! ### The exchange -/

/-- A CSR that an instruction may name is not refused (R67). -/
theorem accessRefused_eq_false {c : Config} {r : Csr} (h : accessible c r) : accessRefused c r = false := by
  unfold accessRefused
  cases hf : r.fieldsUnknown with
  | false => rfl
  | true => rw [h hf]; decide

/-- The state after an exchange: the register `r` written, its old value in x[rd], the pc advanced (R124, R125). -/
def exchanged (s : State) (rd : Reg) (r : Csr) (v m : Word) : State :=
  { ({ s with csr := s.csr.put r (written s r v m) } : State).setX rd (s.csrForGr r) with pc := s.pc + 4 }

/-- The body of CSRWR and CSRXCHG completes wherever the register may be named, takes the value, and the pc is below
the top. -/
theorem csrExchange_eq {s : State} {rd : Reg} {n : CsrNum} {r : Csr} {v m : Word} (hn : csrOfNum s.cfg n = some r)
    (ha : accessible s.cfg r) (hst : storable s.cfg r (mergeMasked (s.csr.get r) v m))
    (hpc : s.pc.toNat + 4 < 2 ^ s.cfg.grlen) : csrExchange rd n v m s = .next (exchanged s rd r v m) := by
  have hr : csrRead n s = .ok (s.csrForGr r, s) := by simp [csrRead, hn, accessRefused_eq_false ha]
  have hw : csrWrite n v m s = .ok { s with csr := s.csr.put r (written s r v m) } := by
    simp only [csrWrite, hn, accessRefused_eq_false ha]
    exact csrStore_written hst
  simp only [csrExchange, hr, hw]
  rw [advance_below (by simpa using hpc)]
  simp [exchanged]

/-- At PLV0 a CSRXCHG is the exchange under the mask x[rj] (R125). -/
theorem exec_csrxchg {s : State} (rd rj : Reg) (n : CsrNum) (hp : s.plv = 0) :
    exec (.csrxchg rd rj n) s = csrExchange rd n (s.x rd) (s.x rj) s :=
  if_pos hp

/-- After an exchange x[rd] holds the old value of the register. -/
theorem exchanged_x (s : State) {rd : Reg} (r : Csr) (v m : Word) (h : rd ≠ 0) :
    (exchanged s rd r v m).x rd = s.csrForGr r := by
  refine (x_setX { s with csr := s.csr.put r (written s r v m) } rd rd (s.csrForGr r)).trans ?_
  rw [if_neg h, if_pos rfl]
  exact narrow_csrForGr s r

/-- After an exchange the register holds what `csr_write` gives it. -/
theorem exchanged_get (s : State) (rd : Reg) (r : Csr) (v m : Word) :
    (exchanged s rd r v m).csr.get r = written s r v m := by
  simp [exchanged, get_put_written]

/-- Settles O25: R111's `(old & ~v) | (v & v) = old | v`, cut to the writable bits. -/
theorem csrxchgIdiomSetsBits : Obligations.CsrxchgIdiomSetsBits := by
  unfold Obligations.CsrxchgIdiomSetsBits
  intro s rd n r hwf hp hn ha hst hpc
  have hrd : rd ≠ 0 := by rintro rfl; simp [Instr.wellFormed] at hwf
  rw [← mergeMasked_self] at hst
  refine ⟨exchanged s rd r (s.x rd) (s.x rd), ?_, exchanged_x s r _ _ hrd, fun b => ?_⟩
  · rw [exec_csrxchg rd rd n hp, csrExchange_eq hn ha hst hpc]
  · rw [exchanged_get, getLsbD_written]
    cases softwareWritable s.cfg r b <;> cases (s.x rd).getLsbD b <;> simp

end Sys2Proof.Proofs
end

section
/-! SUPPORT. The return from an exception (`41_exception_return.md` R140): the mode that a scene leaves in CRMD, and
where it continues. -/

namespace Sys2Proof.Proofs

open Sys2Proof.Machine Sys2Proof.Laws

/-! ### The fields of an updated CRMD -/

section crmd
variable (v : Word32) (plv : BitVec 2) (ie we : BitVec 1)

@[simp] theorem crmdWithMode_plv : getField (crmdWithMode v plv ie we) 0 2 = plv := by
  rw [crmdWithMode, getField_setField_apart _ _ _ _ _ (by decide), getField_setField_apart _ _ _ _ _ (by decide),
    getField_setField_same _ _ _ (by decide)]

@[simp] theorem crmdWithMode_ie : getField (crmdWithMode v plv ie we) 2 1 = ie := by
  rw [crmdWithMode, getField_setField_apart _ _ _ _ _ (by decide), getField_setField_same _ _ _ (by decide)]

@[simp] theorem crmdWithMode_we : getField (crmdWithMode v plv ie we) 9 1 = we := by
  rw [crmdWithMode, getField_setField_same _ _ _ (by decide)]

/-- Writing DA and PG leaves every field beside bits 4:3 as it was. -/
@[simp] theorem getField_crmdWithTranslation (da pg : BitVec 1) {lo n : Nat} (h : lo + n ≤ 3 ∨ 5 ≤ lo) :
    getField (crmdWithTranslation v da pg) lo n = getField v lo n := by
  rw [crmdWithTranslation, getField_setField_apart _ _ _ _ _ (by omega), getField_setField_apart _ _ _ _ _ (by omega)]

/-- Writing DATF and DATM leaves every field beside bits 8:5 as it was. -/
@[simp] theorem getField_crmdWithAccessTypes (datf datm : BitVec 2) {lo n : Nat} (h : lo + n ≤ 5 ∨ 9 ≤ lo) :
    getField (crmdWithAccessTypes v datf datm) lo n = getField v lo n := by
  rw [crmdWithAccessTypes, getField_setField_apart _ _ _ _ _ (by omega), getField_setField_apart _ _ _ _ _ (by omega)]

end crmd

/-! ### The scenes -/

/-- IsMERR decides first (R140). -/
theorem scene_machineError {s : State} (h : s.isMerr = 1) : s.scene = .machineError := if_pos h

/-- IsTLBR decides where IsMERR is 0. -/
theorem scene_tlbRefill {s : State} (hm : s.isMerr = 0) (ht : s.isTlbr = 1) : s.scene = .tlbRefill := by
  simp [State.scene, hm, ht]

theorem scene_ordinary {s : State} (hm : s.isMerr = 0) (ht : s.isTlbr = 0) : s.scene = .ordinary := by
  simp [State.scene, hm, ht]

/-- Bits 1:0 of the return address from a TLB refill are 0, so the reserved bit of TLBRERA does not matter to it. -/
theorem csrValue_tlbrera_aligned (s : State) :
    s.csrValue .tlbrera &&& ~~~3 = narrow s.cfg s.csr.tlbrera &&& ~~~3 := by
  have hbits : (~~~2 &&& ~~~3 : Word) = ~~~3 := by decide
  calc s.csr.tlbrera &&& (grMask s.cfg &&& ~~~2) &&& ~~~3
      = s.csr.tlbrera &&& grMask s.cfg &&& (~~~2 &&& ~~~3) := by simp only [BitVec.and_assoc]
    _ = narrow s.cfg s.csr.tlbrera &&& ~~~3 := by rw [hbits, narrow]

/-! ### ERTN -/

/-- The mode saved in MERRCTL, and MERRERA (R53). -/
theorem returnFrom_machineError {s : State} (h : s.scene = .machineError) :
    (returnFrom s).plv = s.merrPplv ∧ (returnFrom s).ie = s.merrPie ∧ (returnFrom s).we = s.merrPwe ∧
      (returnFrom s).pc = narrow s.cfg s.csr.merrera := by
  refine ⟨?plv, ?ie, ?we, ?pc⟩
  case plv => simp [State.plv, restoredCrmd, h]
  case ie => simp [State.ie, restoredCrmd, h]
  case we => simp [State.we, restoredCrmd, h, State.merrPwe]
  case pc => simp only [returnFrom_pc, returnTarget, h]; rfl

/-- The mode saved in TLBRPRMD, and TLBRERA (R47, R52). -/
theorem returnFrom_tlbRefill {s : State} (h : s.scene = .tlbRefill) :
    (returnFrom s).plv = s.tlbrPplv ∧ (returnFrom s).ie = s.tlbrPie ∧ (returnFrom s).we = s.tlbrPwe ∧
      (returnFrom s).pc = narrow s.cfg s.csr.tlbrera &&& ~~~3 := by
  refine ⟨?plv, ?ie, ?we, ?pc⟩
  case plv => simp [State.plv, restoredCrmd, h]
  case ie => simp [State.ie, restoredCrmd, h]
  case we => simp [State.we, restoredCrmd, h, State.tlbrPwe]
  case pc => simp only [returnFrom_pc, returnTarget, h, csrValue_tlbrera_aligned]

/-- The mode saved in PRMD, and ERA (R18, R23). -/
theorem returnFrom_ordinary {s : State} (h : s.scene = .ordinary) :
    (returnFrom s).plv = s.pplv ∧ (returnFrom s).ie = s.pie ∧ (returnFrom s).we = s.pwe ∧
      (returnFrom s).pc = narrow s.cfg s.csr.era := by
  refine ⟨?plv, ?ie, ?we, ?pc⟩
  case plv => simp [State.plv, restoredCrmd, h]
  case ie => simp [State.ie, restoredCrmd, h]
  case we => simp [State.we, restoredCrmd, h, State.pwe]
  case pc => simp only [returnFrom_pc, returnTarget, h]; rfl

/-- At PLV0 an ERTN that restores a level the core has is the return (R140). -/
theorem exec_ertn {s : State} (hp : s.plv = 0) (hl : plvLegal s.cfg s.savedPlv = true) :
    exec .ertn s = .next (returnFrom s) :=
  (if_pos hp).trans (if_pos hl)

/-- Settles O33: one return, read in the scene that the two flags select. -/
theorem ertnRestoresInnermostScene : Obligations.ErtnRestoresInnermostScene := by
  unfold Obligations.ErtnRestoresInnermostScene
  intro s hp hl
  exact ⟨returnFrom s, exec_ertn hp hl,
    fun hm => returnFrom_machineError (scene_machineError hm),
    fun hm ht => returnFrom_tlbRefill (scene_tlbRefill hm ht),
    fun hm ht => returnFrom_ordinary (scene_ordinary hm ht)⟩

end Sys2Proof.Proofs
end

section
/-! SUPPORT. The codes of ESTAT (`10_state.md` R22): software cannot write them, and the entry of an ordinary exception
records its own. -/

namespace Sys2Proof.Proofs

open Sys2Proof.Machine Sys2Proof.Laws

/-! ### What CSR accesses keep -/

/-- The bits of `r` that software cannot write are in `t` as they are in `s`. -/
def HardwareBitsKept (s t : State) (r : Csr) : Prop :=
  ∀ b, softwareWritable s.cfg r b = false → (t.csr.get r).getLsbD b = (s.csr.get r).getLsbD b

theorem HardwareBitsKept.of_get {s t : State} {r : Csr} (h : t.csr.get r = s.csr.get r) : HardwareBitsKept s t r :=
  fun _ _ => by rw [h]

/-- A CSR read changes neither the CSRs nor the configuration. -/
theorem csrRead_keeps {n : CsrNum} {s t : State} {v : Word} (h : csrRead n s = .ok (v, t)) :
    t.csr = s.csr ∧ t.cfg = s.cfg := by
  rcases csrRead_ok h with ⟨-, -, rfl⟩ | ⟨-, -, -, -, rfl⟩ <;> exact ⟨rfl, rfl⟩

/-- An advance changes no CSR. -/
theorem advance_setX_csr {s t : State} {rd : Reg} {v : Word} (h : advance (s.setX rd v) = .next t) :
    t.csr = s.csr := by
  obtain ⟨rfl, -⟩ := advance_next h
  exact setX_csr s rd v

/-- `csr_write` changes no bit of any register that software cannot write (R16, R122). -/
theorem csrWrite_keeps {n : CsrNum} {v m : Word} {s t : State} (h : csrWrite n v m s = .ok t) (r : Csr) :
    HardwareBitsKept s t r := by
  rcases csrWrite_ok h with ⟨-, rfl⟩ | ⟨r', -, -, hstore⟩
  · exact .of_get rfl
  · obtain ⟨rfl, -, -⟩ := csrStore_ok hstore
    by_cases hr : r = r'
    · subst hr
      intro b hb
      change ((s.csr.put r (written s r v m)).get r).getLsbD b = _
      rw [get_put_written, getLsbD_written, hb]
      rfl
    · exact .of_get (csrs_get_put_ne s.csr _ hr)

theorem csrToGr_keeps {rd : Reg} {n : CsrNum} {s t : State} (h : csrToGr rd n s = .next t) (r : Csr) :
    HardwareBitsKept s t r := by
  obtain ⟨v, s1, hread, hadv⟩ := csrToGr_next h
  exact .of_get (by rw [advance_setX_csr hadv, (csrRead_keeps hread).1])

theorem csrExchange_keeps {rd : Reg} {n : CsrNum} {new mask : Word} {s t : State}
    (h : csrExchange rd n new mask s = .next t) (r : Csr) : HardwareBitsKept s t r := by
  obtain ⟨v, s1, s2, hread, hwrite, hadv⟩ := csrExchange_next h
  obtain ⟨hcsr, hcfg⟩ := csrRead_keeps hread
  intro b hb
  rw [advance_setX_csr hadv, csrWrite_keeps hwrite r b (by rwa [hcfg]), hcsr]

/-! ### What a step records -/

/-- An instruction raises SYS, BRK or IPE, or leaves the bits of ESTAT that software cannot write as they are. -/
theorem exec_raises_or_keeps_estat {i : Instr} {s t : State} (h : exec i s = .next t) :
    (∃ e ∈ ([.sys, .brk, .ipe] : List Exception), ∃ info, t = raise e info s) ∨ HardwareBitsKept s t .estat := by
  rcases exec_next h with ⟨-, ht⟩ | ⟨rd, n, -, -, hb⟩ | ⟨rd, n, -, -, hb⟩ | ⟨rd, rj, n, -, -, hb⟩ | ⟨-, -, ht, -⟩ |
    ⟨k, -, ht⟩ | ⟨k, -, ht⟩
  · exact .inl ⟨.ipe, by simp, _, ht⟩
  · exact .inr (csrToGr_keeps hb .estat)
  · exact .inr (csrExchange_keeps hb .estat)
  · exact .inr (csrExchange_keeps hb .estat)
  · exact .inr (.of_get (by rw [ht, returnFrom_get s .estat (by decide)]))
  · exact .inl ⟨.sys, by simp, _, ht⟩
  · exact .inl ⟨.brk, by simp, _, ht⟩

/-- A step raises INT, ADEF, SYS, BRK or IPE, or leaves the bits of ESTAT that software cannot write as they are
(`70_reset_and_hazards.md` R233). -/
theorem step_raises_or_keeps_estat {s t : State} (h : step s = .next t) :
    (∃ e ∈ ([.int, .adef, .sys, .brk, .ipe] : List Exception), ∃ info, t = raise e info s.sample) ∨
      HardwareBitsKept s t .estat := by
  rcases step_next h with ⟨-, ht⟩ | ⟨-, -, ht⟩ | ⟨w, i, -, -, -, hexec⟩
  · exact .inl ⟨.int, by simp, _, ht⟩
  · exact .inl ⟨.adef, by simp, _, ht⟩
  · rcases exec_raises_or_keeps_estat hexec with ⟨e, he, info, ht⟩ | hkept
    · exact .inl ⟨e, .tail _ (.tail _ he), info, ht⟩
    · exact .inr (by simpa [HardwareBitsKept] using hkept)

/-- ECODE is none of software's bits. -/
theorem HardwareBitsKept.ecode {s t : State} (h : HardwareBitsKept s t .estat) : t.ecode = s.ecode := by
  apply BitVec.eq_of_getLsbD_eq
  intro b hb
  have hbit := h (16 + b) (by simp [softwareWritable]; omega)
  have hlt : 16 + b < 64 := by omega
  simp only [Csrs.get, BitVec.getLsbD_setWidth, hlt, decide_true, Bool.true_and] at hbit
  rw [State.ecode, State.ecode, getLsbD_getField, getLsbD_getField, hbit]

/-! ### The entry of an exception -/

/-- An exception with codes is entered the ordinary way (R199). -/
theorem raise_ordinary {e : Exception} {ec : BitVec 6} {es : BitVec 9} (hc : e.codes = some (ec, es)) (info : TrapInfo)
    (s : State) : raise e info s = takeOrdinary e ec es info s := by
  simp only [raise, hc]

/-- ECODE after an ordinary entry (R195 step 3). -/
theorem raise_ecode {e : Exception} {ec : BitVec 6} {es : BitVec 9} (hc : e.codes = some (ec, es)) (info : TrapInfo)
    (s : State) : (raise e info s).ecode = ec := by
  rw [raise_ordinary hc, State.ecode, takeOrdinary_estat, estatWithCodes,
    getField_setField_apart _ _ _ _ _ (by decide), getField_setField_same _ _ _ (by decide)]

/-- BADI after the ordinary entry of a synchronous exception with an instruction word (R25). -/
theorem raise_badi {e : Exception} {ec : BitVec 6} {es : BitVec 9} (hc : e.codes = some (ec, es))
    (hsync : e.synchronous = true) {info : TrapInfo} {w : Word32} (hw : info.inst = some w) (s : State) :
    (raise e info s).csr.badi = w := by
  rw [raise_ordinary hc]
  simp [takeOrdinary, hsync, badiOf, hw]

/-- A step keeps ECODE or writes that of INT, ADEF, SYS, BRK or IPE. -/
theorem step_ecode {s t : State} (h : step s = .next t) :
    t.ecode ∈ ([0, 0x8, 0xB, 0xC, 0xE] : List (BitVec 6)) ∨ t.ecode = s.ecode := by
  rcases step_raises_or_keeps_estat h with ⟨e, he, info, rfl⟩ | hkept
  · left
    have hcodes : ∀ e ∈ ([.int, .adef, .sys, .brk, .ipe] : List Exception),
        ∃ ec ∈ ([0, 0x8, 0xB, 0xC, 0xE] : List (BitVec 6)), e.codes = some (ec, 0) := by decide
    obtain ⟨ec, hmem, hc⟩ := hcodes e he
    rwa [raise_ecode hc]
  · exact .inr hkept.ecode

/-- Settles O46: the entry of each of the three, and the Ecodes a step can record, among which theirs are not. -/
theorem unitExceptionsRecordedButNeverRaised : Obligations.UnitExceptionsRecordedButNeverRaised := by
  unfold Obligations.UnitExceptionsRecordedButNeverRaised
  constructor
  · rintro s e info w hw (rfl | rfl | rfl)
    · exact ⟨raise_badi rfl rfl hw s, rfl, fun _ => raise_ecode rfl info s, nofun, nofun⟩
    · exact ⟨raise_badi rfl rfl hw s, rfl, nofun, fun _ => raise_ecode rfl info s, nofun⟩
    · exact ⟨raise_badi rfl rfl hw s, rfl, nofun, nofun, fun _ => raise_ecode rfl info s⟩
  · intro s t hstep hunit
    have hdisjoint : ∀ ec ∈ ([0, 0x8, 0xB, 0xC, 0xE] : List (BitVec 6)),
        ec ∉ ([0xF, 0x10, 0x11] : List (BitVec 6)) := by decide
    exact (step_ecode hstep).resolve_left fun hrecorded => hdisjoint _ hrecorded hunit

end Sys2Proof.Proofs
end

section
/-! SUPPORT. The decoder and the encoder (`30_encoding.md`): a row fixes the bits of its mask, rows with different fixed
bits share no word, and a word is put together from its fields. -/

namespace Sys2Proof.Proofs

open Sys2Proof.Machine Sys2Proof.Laws

/-! ### Rows of fixed bits -/

/-- Two rows that fix a common bit differently share no word. -/
theorem and_ne_of_row_apart {w m v m' v' : Word32} (h : w &&& m = v) (hne : v &&& m' ≠ v' &&& m) : w &&& m' ≠ v' := by
  rintro rfl
  apply hne
  rw [← h, BitVec.and_assoc, BitVec.and_assoc, BitVec.and_comm m m']

/-- A field inside the mask of a row has the row's value. -/
theorem extract_of_row {w m v : Word32} (h : w &&& m = v) {lo n : Nat}
    (hm : m.extractLsb' lo n = BitVec.allOnes n) : w.extractLsb' lo n = v.extractLsb' lo n := by
  rw [← h, BitVec.extractLsb'_and, hm, BitVec.and_allOnes]

/-- The mask and the match value of the six rows of R106, from top to bottom. -/
def instrRows : List (Word32 × Word32) :=
  [(0xFF0003E0, 0x04000000), (0xFF0003E0, 0x04000020), (0xFF000000, 0x04000000), (0xFFFFFFFF, 0x06483800),
   (0xFFFF8000, 0x002B0000), (0xFFFF8000, 0x002A0000)]

/-- A word of none of the six rows is no instruction. -/
theorem decode_eq_error {w : Word32} (h : ∀ r ∈ instrRows, w &&& r.1 ≠ r.2) : decode w = .error (refuseWord w) := by
  simp only [instrRows, List.forall_mem_cons] at h
  obtain ⟨h1, h2, h3, h4, h5, h6, -⟩ := h
  simp only [decode, h1, h2, h3, h4, h5, h6, if_false]

/-! ### Fields of the CSR format -/

section csrFormat
variable (n : CsrNum) (rj rd : Reg)

@[simp] theorem fieldRd_encodeCsrFormat : fieldRd (encodeCsrFormat n rj rd) = rd :=
  BitVec.extractLsb'_append_eq_right

@[simp] theorem fieldRj_encodeCsrFormat : fieldRj (encodeCsrFormat n rj rd) = rj := by
  rw [fieldRj, encodeCsrFormat, BitVec.extractLsb'_append_eq_of_le (by decide)]
  exact BitVec.extractLsb'_append_eq_right

@[simp] theorem fieldCsr_encodeCsrFormat : fieldCsr (encodeCsrFormat n rj rd) = n := by
  rw [fieldCsr, encodeCsrFormat, BitVec.extractLsb'_append_eq_of_le (by decide),
    BitVec.extractLsb'_append_eq_of_le (by decide)]
  exact BitVec.extractLsb'_append_eq_right

/-- Every word of the CSR format is one of the three instructions, which one being told by `rj` (R106, R108). -/
theorem decode_encodeCsrFormat : decode (encodeCsrFormat n rj rd) =
    .ok (if rj = 0 then .csrrd rd n else if rj = 1 then .csrwr rd n else .csrxchg rd rj n) := by
  have hrj {v : Word32} (h : encodeCsrFormat n rj rd &&& 0xFF0003E0 = v) : rj = fieldRj v :=
    (fieldRj_encodeCsrFormat n rj rd).symm.trans (extract_of_row h (by decide))
  by_cases h0 : rj = 0
  · subst h0
    have hrow : encodeCsrFormat n 0 rd &&& 0xFF0003E0 = 0x04000000 := TableRow.csrrd rd n
    rw [decode, if_pos hrow, fieldRd_encodeCsrFormat, fieldCsr_encodeCsrFormat, if_pos rfl]
  · have hne0 : encodeCsrFormat n rj rd &&& 0xFF0003E0 ≠ 0x04000000 := fun h => h0 (hrj h)
    by_cases h1 : rj = 1
    · subst h1
      have hrow : encodeCsrFormat n 1 rd &&& 0xFF0003E0 = 0x04000020 := TableRow.csrwr rd n
      rw [decode, if_neg hne0, if_pos hrow, fieldRd_encodeCsrFormat, fieldCsr_encodeCsrFormat, if_neg h0, if_pos rfl]
    · have hne1 : encodeCsrFormat n rj rd &&& 0xFF0003E0 ≠ 0x04000020 := fun h => h1 (hrj h)
      have hrow : encodeCsrFormat n rj rd &&& 0xFF000000 = 0x04000000 := TableRow.csrxchg rd rj n
      rw [decode, if_neg hne0, if_neg hne1, if_pos hrow, fieldRd_encodeCsrFormat, fieldRj_encodeCsrFormat,
        fieldCsr_encodeCsrFormat, if_neg h0, if_neg h1]

end csrFormat

/-- A word of the CSR opcode is put together from its three fields. -/
theorem encodeCsrFormat_fields {w : Word32} (h : w &&& 0xFF000000 = 0x04000000) :
    encodeCsrFormat (fieldCsr w) (fieldRj w) (fieldRd w) = w := by
  have hop : w.extractLsb' 24 8 = 0x04#8 := extract_of_row h (by decide)
  rw [encodeCsrFormat, ← hop, fieldCsr, fieldRj, fieldRd,
    BitVec.extractLsb'_append_extractLsb'_eq_extractLsb' (by decide),
    BitVec.extractLsb'_append_extractLsb'_eq_extractLsb' (by decide),
    BitVec.extractLsb'_append_extractLsb'_eq_extractLsb' (by decide)]
  exact BitVec.extractLsb'_eq_self

/-- A word of the CSR opcode whose `rj` is fixed by its row. -/
theorem encodeCsrFormat_of_row {w v : Word32} (h : w &&& 0xFF0003E0 = v) (hv : v &&& 0xFF000000 = 0x04000000) :
    encodeCsrFormat (fieldCsr w) (fieldRj v) (fieldRd w) = w := by
  have hop : w &&& 0xFF000000 = 0x04000000 := by
    rw [← hv, ← h, BitVec.and_assoc]
    rfl
  have hrj : fieldRj w = fieldRj v := extract_of_row h (by decide)
  rw [← hrj, encodeCsrFormat_fields hop]

/-! ### The format of SYSCALL and BREAK -/

/-- A word whose upper 17 bits are fixed is put together from them and its code. -/
theorem append_fieldCode {w v : Word32} (h : w &&& 0xFFFF8000 = v) : v.extractLsb' 15 17 ++ fieldCode w = w := by
  have hop : w.extractLsb' 15 17 = v.extractLsb' 15 17 := extract_of_row h (by decide)
  rw [← hop, fieldCode, BitVec.extractLsb'_append_extractLsb'_eq_extractLsb' (by decide)]
  exact BitVec.extractLsb'_eq_self

/-- A word whose upper 17 bits lie apart from the first four rows is SYSCALL, BREAK or no instruction. -/
theorem decode_of_upper17 {w v : Word32} (hrow : w &&& 0xFFFF8000 = v)
    (hapart : ∀ r ∈ instrRows.take 4, v &&& r.1 ≠ r.2 &&& 0xFFFF8000) :
    decode w = if v = 0x002B0000 then .ok (.syscall (fieldCode w))
      else if v = 0x002A0000 then .ok (.brk (fieldCode w))
      else .error (refuseWord w) := by
  simp only [instrRows, List.take, List.forall_mem_cons] at hapart
  obtain ⟨h1, h2, h3, h4, -⟩ := hapart
  rw [decode, if_neg (and_ne_of_row_apart hrow h1), if_neg (and_ne_of_row_apart hrow h2),
    if_neg (and_ne_of_row_apart hrow h3), if_neg (and_ne_of_row_apart hrow h4), hrow]

theorem decode_encode_syscall (code : BitVec 15) : decode (encode (.syscall code)) = .ok (.syscall code) := by
  have hcode : fieldCode (encode (.syscall code)) = code := BitVec.extractLsb'_append_eq_right
  have hrow : encode (.syscall code) &&& 0xFFFF8000 = 0x002B0000 := TableRow.syscall code
  rw [decode_of_upper17 hrow (by simp [instrRows]), if_pos rfl, hcode]

theorem decode_encode_brk (code : BitVec 15) : decode (encode (.brk code)) = .ok (.brk code) := by
  have hcode : fieldCode (encode (.brk code)) = code := BitVec.extractLsb'_append_eq_right
  have hrow : encode (.brk code) &&& 0xFFFF8000 = 0x002A0000 := TableRow.brk code
  rw [decode_of_upper17 hrow (by simp [instrRows]), if_neg (by decide), if_pos rfl, hcode]

/-! ### The round trips -/

theorem wellFormed_csrxchg {rd rj : Reg} {n : CsrNum} :
    (Instr.csrxchg rd rj n).wellFormed = true ↔ rj ≠ 0 ∧ rj ≠ 1 := by
  simp only [Instr.wellFormed, Bool.and_eq_true, bne_iff_ne]

/-- Settles O1, instruction by instruction: in the CSR format well-formedness keeps CSRXCHG off the other two. -/
theorem decodeEncodeRoundTrip : Obligations.DecodeEncodeRoundTrip := by
  unfold Obligations.DecodeEncodeRoundTrip
  intro i hwf
  cases i with
  | csrrd rd n => exact decode_encodeCsrFormat n 0 rd
  | csrwr rd n => exact decode_encodeCsrFormat n 1 rd
  | csrxchg rd rj n =>
    obtain ⟨h0, h1⟩ := wellFormed_csrxchg.mp hwf
    rw [encode, decode_encodeCsrFormat, if_neg h0, if_neg h1]
  | ertn => decide
  | syscall code => exact decode_encode_syscall code
  | brk code => exact decode_encode_brk code

/-- Settles O2, row by row of the decoder: the row gives the fixed bits back, the fields give the others. -/
theorem encodeDecodeRoundTrip : Obligations.EncodeDecodeRoundTrip := by
  unfold Obligations.EncodeDecodeRoundTrip
  intro w i h
  unfold decode at h
  split at h
  · next hrow =>
    cases h
    have hw := encodeCsrFormat_of_row hrow (by decide)
    exact ⟨rfl, hw⟩
  split at h
  · next hrow =>
    cases h
    have hw := encodeCsrFormat_of_row hrow (by decide)
    exact ⟨rfl, hw⟩
  split at h
  · next hne0 hne1 hrow =>
    cases h
    have hw := encodeCsrFormat_fields hrow
    refine ⟨?_, hw⟩
    have h0 : fieldRj w ≠ 0 := fun e => hne0 (by rw [← hw, e]; exact TableRow.csrrd _ _)
    have h1 : fieldRj w ≠ 1 := fun e => hne1 (by rw [← hw, e]; exact TableRow.csrwr _ _)
    exact wellFormed_csrxchg.mpr ⟨h0, h1⟩
  split at h
  · next hrow =>
    cases h
    exact ⟨rfl, by rw [encode, ← hrow]; exact BitVec.and_allOnes⟩
  split at h
  · next hrow =>
    cases h
    have hw := append_fieldCode hrow
    exact ⟨rfl, hw⟩
  split at h
  · next hrow =>
    cases h
    have hw := append_fieldCode hrow
    exact ⟨rfl, hw⟩
  · cases h

/-- Settles O3: ERTN's upper 22 bits lie apart from the rows of the other five. -/
theorem csrFormatHasNoReservedWord : Obligations.CsrFormatHasNoReservedWord := by
  unfold Obligations.CsrFormatHasNoReservedWord
  refine ⟨decode_encodeCsrFormat, fun w htop hne => ⟨refuseWord w, decode_eq_error ?_⟩⟩
  have hrow : w &&& 0xFFFFFC00 = 0x06483800 := by
    have hw : w.extractLsb' 10 22 ++ w.extractLsb' 0 10 = w :=
      (BitVec.extractLsb'_append_extractLsb'_eq_extractLsb' rfl).trans BitVec.extractLsb'_eq_self
    rw [htop] at hw
    have hmask : (0xFFFFFC00 : Word32) = BitVec.allOnes 22 ++ 0#10 := by decide
    rw [← hw, hmask, BitVec.and_append, BitVec.and_allOnes, BitVec.and_zero]
    decide
  have hertn : w &&& 0xFFFFFFFF ≠ 0x06483800 := fun h => hne (BitVec.and_allOnes.symm.trans h)
  simp only [instrRows, List.forall_mem_cons]
  exact ⟨and_ne_of_row_apart hrow (by decide), and_ne_of_row_apart hrow (by decide),
    and_ne_of_row_apart hrow (by decide), hertn, and_ne_of_row_apart hrow (by decide),
    and_ne_of_row_apart hrow (by decide), List.forall_mem_nil _⟩

/-- Settles O4. -/
theorem decodeKnownWords : Obligations.DecodeKnownWords := by
  unfold Obligations.DecodeKnownWords
  decide

/-! ### The rows of G30 -/

/-- No row of G30 shares a word with a row of R106. -/
theorem instrRows_apart : ∀ r ∈ instrRows, ∀ row ∈ outOfScopeRows, row.2.1 &&& r.1 ≠ r.2 &&& row.1 := by
  simp [instrRows, outOfScopeRows]

/-- No two rows of G30 share a word. -/
theorem outOfScopeRows_apart : outOfScopeRows.Pairwise fun r r' => r.2.1 &&& r'.1 ≠ r'.2.1 &&& r.1 := by
  decide

/-- A word of a row of G30 is refused by the name of that row. -/
theorem refuseWord_of_row {row : Word32 × Word32 × OutOfScope} {w : Word32} (hrow : row ∈ outOfScopeRows)
    (hw : w &&& row.1 = row.2.1) : refuseWord w = .outOfScope row.2.2 := by
  have hsymm : Std.Symm fun r r' : Word32 × Word32 × OutOfScope => r.2.1 &&& r'.1 ≠ r'.2.1 &&& r.1 := ⟨fun _ _ => .symm⟩
  unfold refuseWord
  split
  · next r hfind =>
    have hr : w &&& r.1 = r.2.1 := by simpa using List.find?_some hfind
    have hsame : row = r := by
      by_contra hne
      have hapart := outOfScopeRows_apart.forall hrow (List.mem_of_find?_eq_some hfind) hne
      exact and_ne_of_row_apart hw hapart hr
    rw [hsame]
  · next hfind => exact absurd hw (by simpa using List.find?_eq_none.mp hfind row hrow)

/-- Settles O5: the rows of G30 lie apart from the six rows of the instructions and from each other. -/
theorem outOfScopeWordsRefusedByName : Obligations.OutOfScopeWordsRefusedByName := by
  unfold Obligations.OutOfScopeWordsRefusedByName
  intro row hrow w hw
  rw [decode_eq_error fun r hr => and_ne_of_row_apart hw (instrRows_apart r hr row hrow), refuseWord_of_row hrow hw]

end Sys2Proof.Proofs
end

section
/-! SUPPORT. The fetch (`20_memory.md` R82, R84) and what a boundary leads to (`70_reset_and_hazards.md` R233). -/

namespace Sys2Proof.Proofs

open Sys2Proof.Machine Sys2Proof.Laws

/-! ### Words and their bytes -/

section wordOfBytes
variable (b0 b1 b2 b3 : Byte)

theorem getField_wordOfBytes_0 : getField (wordOfBytes b0 b1 b2 b3) 0 8 = b0 :=
  BitVec.extractLsb'_append_eq_right

theorem getField_wordOfBytes_8 : getField (wordOfBytes b0 b1 b2 b3) 8 8 = b1 := by
  rw [getField, wordOfBytes, BitVec.extractLsb'_append_eq_of_le (by decide)]
  exact BitVec.extractLsb'_append_eq_right

theorem getField_wordOfBytes_16 : getField (wordOfBytes b0 b1 b2 b3) 16 8 = b2 := by
  rw [getField, wordOfBytes, BitVec.extractLsb'_append_eq_of_le (by decide),
    BitVec.extractLsb'_append_eq_of_le (by decide)]
  exact BitVec.extractLsb'_append_eq_right

theorem getField_wordOfBytes_24 : getField (wordOfBytes b0 b1 b2 b3) 24 8 = b3 := by
  rw [getField, wordOfBytes, BitVec.extractLsb'_append_eq_of_le (by decide),
    BitVec.extractLsb'_append_eq_of_le (by decide), BitVec.extractLsb'_append_eq_of_le (by decide)]
  exact BitVec.extractLsb'_eq_self

end wordOfBytes

/-- A word laid out in memory order and read back is the word (R82). -/
theorem wordOfBytes_bytes (w : Word32) :
    wordOfBytes (w.extractLsb' 0 8) (w.extractLsb' 8 8) (w.extractLsb' 16 8) (w.extractLsb' 24 8) = w := by
  rw [wordOfBytes, BitVec.extractLsb'_append_extractLsb'_eq_extractLsb' (by decide),
    BitVec.extractLsb'_append_extractLsb'_eq_extractLsb' (by decide),
    BitVec.extractLsb'_append_extractLsb'_eq_extractLsb' (by decide)]
  exact BitVec.extractLsb'_eq_self

/-! ### Reading placed bytes -/

/-- Placing bytes leaves the bytes beside them as they were. -/
theorem memory_read_writeBytes_outside (bs : List Byte) (m : Memory) (a b : Nat) (h : b < a ∨ a + bs.length ≤ b) :
    Memory.read (Memory.writeBytes m a bs) b = Memory.read m b := by
  induction bs generalizing m a with
  | nil => rfl
  | cons x bs ih =>
    simp only [List.length_cons] at h
    rw [Memory.writeBytes, ih _ _ (by omega), memory_read_write, if_neg (by omega)]

/-- Placed bytes are read back. -/
theorem memory_readBytes_writeBytes (bs : List Byte) (m : Memory) (a : Nat) :
    Memory.readBytes (Memory.writeBytes m a bs) a bs.length = some bs := by
  induction bs generalizing m a with
  | nil => rfl
  | cons x bs ih =>
    have hhead : Memory.read (Memory.writeBytes (Memory.write m a x) (a + 1) bs) a = some x := by
      rw [memory_read_writeBytes_outside _ _ _ _ (by omega), memory_read_write, if_pos rfl]
    simp only [List.length_cons, Memory.writeBytes, Memory.readBytes, hhead, ih]

/-- The fetched word, from the four bytes that a multi-byte read gives. -/
theorem fetchWord_of_readBytes {s : State} {va : Word} {b0 b1 b2 b3 : Byte}
    (h : Memory.readBytes s.mem (physAddr s.cfg va) 4 = some [b0, b1, b2, b3]) :
    fetchWord s va = some (wordOfBytes b0 b1 b2 b3) := by
  simp only [fetchWord, h]

/-- Settles O6: the fetched word is the four bytes, the lowest address in the lowest bits. -/
theorem fetchIsLittleEndian : Obligations.FetchIsLittleEndian := by
  unfold Obligations.FetchIsLittleEndian
  intro s va b0 b1 b2 b3 h0 h1 h2 h3
  refine ⟨_, fetchWord_of_readBytes ?_, getField_wordOfBytes_0 .., getField_wordOfBytes_8 ..,
    getField_wordOfBytes_16 .., getField_wordOfBytes_24 ..⟩
  simp only [Memory.readBytes, h0, h1, h2, h3]

/-- Settles O7. -/
theorem fetchReadsPlacedWord : Obligations.FetchReadsPlacedWord := by
  unfold Obligations.FetchReadsPlacedWord
  intro s va w
  constructor
  · have hplaced := memory_readBytes_writeBytes (bytesOfWord w) s.mem (physAddr s.cfg va)
    have hfetch : fetchWord (placeWord s va w) va = _ := fetchWord_of_readBytes hplaced
    exact hfetch.trans (congrArg some (wordOfBytes_bytes w))
  · intro a ha
    exact memory_read_writeBytes_outside (bytesOfWord w) s.mem _ a ha

/-! ### What the lines do not touch -/

section sample
variable (s : State)

@[simp] theorem sample_plv : s.sample.plv = s.plv := by simp [State.plv]
@[simp] theorem sample_ie : s.sample.ie = s.ie := by simp [State.ie]
@[simp] theorem sample_da : s.sample.da = s.da := by simp [State.da]
@[simp] theorem sample_pg : s.sample.pg = s.pg := by simp [State.pg]
@[simp] theorem sample_lie : s.sample.lie = s.lie := by simp [State.lie]
@[simp] theorem sample_fetchWord (va : Word) : fetchWord s.sample va = fetchWord s va := by simp [fetchWord]

/-- The entry address does not depend on the lines. -/
@[simp] theorem sample_entry (code : Nat) : s.sample.entry code = s.entry code := by
  unfold State.sample; split <;> rfl

theorem sample_eq : s.sample = { s with lines := s.oracle.headD s.lines, oracle := s.oracle.tail } := by
  unfold State.sample
  split
  · next h => cases s; cases h; rfl
  · next l ls h => rw [h]; rfl

end sample

/-! ### What a step does at each kind of boundary -/

/-- R233 line 2. -/
theorem step_of_interrupt {s : State} (h : s.sample.takesInterrupt = true) :
    step s = .next (raise .int ⟨none, 0⟩ s.sample) := by
  rw [step, State.boundary, if_pos h]
  rfl

section noInterrupt
variable {s : State} (hi : s.sample.takesInterrupt = false)
include hi

/-- R233 line 3: DA = PG is no translation mode. -/
theorem step_of_undefinedMode (h : s.da = s.pg) : step s = .refused .undefinedTranslationMode := by
  have hs : s.sample.da = s.sample.pg := by simpa using h
  rw [step, State.boundary, hi, if_neg (by decide), if_pos hs]
  rfl

theorem step_of_mappedMode (hda : s.da = 0) (hpg : s.pg = 1) : step s = .refused .mappedTranslation := by
  have hne : ¬ s.sample.da = s.sample.pg := by simp [hda, hpg]
  have hs : s.sample.pg = 1 := by simpa using hpg
  rw [step, State.boundary, hi, if_neg (by decide), if_neg hne, if_pos hs]
  rfl

/-- In direct translation mode what remains is the alignment of the pc and the fetch. -/
theorem boundary_of_directMode (hda : s.da = 1) (hpg : s.pg = 0) :
    s.sample.boundary = if getField s.pc 0 2 ≠ 0 then .trap .adef ⟨none, s.pc⟩
      else (fetchWord s s.pc).elim (.refuse (.noProgramWord s.pc)) .word := by
  have hne : ¬ s.sample.da = s.sample.pg := by simp [hda, hpg]
  have hs : ¬ s.sample.pg = 1 := by simp [hpg]
  rw [State.boundary, hi, if_neg (by decide), if_neg hne, if_neg hs, sample_pc, sample_fetchWord]
  cases fetchWord s s.pc <;> rfl

/-- R233 line 4. -/
theorem step_of_misalignedPc (hda : s.da = 1) (hpg : s.pg = 0) (ha : getField s.pc 0 2 ≠ 0) :
    step s = .next (raise .adef ⟨none, s.pc⟩ s.sample) := by
  rw [step, boundary_of_directMode hi hda hpg, if_pos ha]
  rfl

/-- R233 line 5. -/
theorem step_of_noProgramWord (hda : s.da = 1) (hpg : s.pg = 0) (ha : getField s.pc 0 2 = 0)
    (hf : fetchWord s s.pc = none) : step s = .refused (.noProgramWord s.pc) := by
  rw [step, boundary_of_directMode hi hda hpg, if_neg (not_not.mpr ha), hf]
  rfl

end noInterrupt

/-- R233 lines 5 and 6: the fetched word is decoded. -/
theorem step_of_fetches {s : State} {w : Word32} (h : Fetches s.sample w) :
    step s = afterBoundary s.sample (.word w) := by
  obtain ⟨hint, hda, hpg, ha, hf⟩ := h
  have hi : s.sample.takesInterrupt = false := by
    rcases hint with hie | hpend
    · simp [State.takesInterrupt, hie]
    · simp [State.takesInterrupt, hpend]
  rw [sample_da] at hda
  rw [sample_pg] at hpg
  rw [sample_pc] at ha hf
  rw [sample_fetchWord] at hf
  rw [step, boundary_of_directMode hi hda hpg, if_neg (not_not.mpr ha), hf]
  rfl

theorem step_of_instr {s : State} {w : Word32} {i : Instr} (h : Fetches s.sample w) (hd : decode w = .ok i) :
    step s = exec i s.sample := by
  simp only [step_of_fetches h, afterBoundary, hd]

/-- Settles O8. -/
theorem stepRunsDecodedInstruction : Obligations.StepRunsDecodedInstruction := by
  unfold Obligations.StepRunsDecodedInstruction
  exact fun s w i h hd => ⟨step_of_instr h hd, sample_eq s⟩

/-- Settles O9. -/
theorem stepRefusesWordWithoutRow : Obligations.StepRefusesWordWithoutRow := by
  unfold Obligations.StepRefusesWordWithoutRow
  intro s w e h hd
  simp only [step_of_fetches h, afterBoundary, hd]

/-- Settles O10. -/
theorem stepStopsWithoutProgramWord : Obligations.StepStopsWithoutProgramWord := by
  unfold Obligations.StepStopsWithoutProgramWord
  exact fun s hi hda hpg ha hf => step_of_noProgramWord hi hda hpg ha hf

/-- Settles O11. -/
theorem stepRefusesOutsideDirectMode : Obligations.StepRefusesOutsideDirectMode := by
  unfold Obligations.StepRefusesOutsideDirectMode
  exact fun s hi => ⟨step_of_undefinedMode hi, fun ⟨hda, hpg⟩ => step_of_mappedMode hi hda hpg⟩

/-- An enabled interrupt is pending exactly when one of the 13 sources is asserted and enabled. -/
theorem pending_ne_zero {s : State} :
    s.pending ≠ 0 ↔ ∃ i, i < 13 ∧ s.is.getLsbD i = true ∧ s.lie.getLsbD i = true := by
  constructor
  · intro h
    by_contra hnone
    apply h
    apply BitVec.eq_of_getLsbD_eq
    intro i hi
    rw [State.pending, BitVec.getLsbD_and]
    by_contra hbit
    have hboth : s.is.getLsbD i = true ∧ s.lie.getLsbD i = true := by simpa using hbit
    exact hnone ⟨i, hi, hboth⟩
  · rintro ⟨i, -, his, hlie⟩ h
    have hbit := congrArg (·.getLsbD i) h
    simp [State.pending, his, hlie] at hbit

theorem takesInterrupt_iff {s : State} : s.takesInterrupt = true ↔ s.ie = 1 ∧ s.pending ≠ 0 := by
  rw [State.takesInterrupt, Bool.and_eq_true, beq_iff_eq, bne_iff_ne]

/-- Settles O12. -/
theorem interruptTakenExactlyWhenEnabled : Obligations.InterruptTakenExactlyWhenEnabled := by
  unfold Obligations.InterruptTakenExactlyWhenEnabled
  intro s
  rw [takesInterrupt_iff, pending_ne_zero]

/-! ### A run -/

/-- Settles O55. -/
theorem runEndsAtEndPc : Obligations.RunEndsAtEndPc := by
  unfold Obligations.RunEndsAtEndPc
  intro k s
  constructor
  · intro h
    have hended : s.ended = true := beq_iff_eq.mpr h
    cases k with
    | zero => rfl
    | succ k => rw [runToEnd, if_pos hended]
  · intro h
    have hended : ¬ s.ended = true := fun he => h (beq_iff_eq.mp he)
    constructor
    · intro t ht
      simp only [runToEnd, if_neg hended, ht]
    · intro r hr
      simp only [runToEnd, if_neg hended, hr]

end Sys2Proof.Proofs
end

section
/-! SUPPORT. The three trap entries (`60_exceptions.md` R195, R198, R200): the fields they leave, and which exceptions
write which registers. -/

namespace Sys2Proof.Proofs

open Sys2Proof.Machine Sys2Proof.Laws

/-! ### The fields of the updated registers -/

/-- Writing PLV, IE and WE leaves every field between IE and WE as it was. -/
@[simp] theorem getField_crmdWithMode (v : Word32) (plv : BitVec 2) (ie we : BitVec 1) {lo n : Nat}
    (hlo : 3 ≤ lo) (hhi : lo + n ≤ 9) : getField (crmdWithMode v plv ie we) lo n = getField v lo n := by
  rw [crmdWithMode, getField_setField_apart _ _ _ _ _ (by omega), getField_setField_apart _ _ _ _ _ (by omega),
    getField_setField_apart _ _ _ _ _ (by omega)]

section savedMode
variable (v : Word32) (plv : BitVec 2) (ie we : BitVec 1)

@[simp] theorem prmdSaving_plv : getField (prmdSaving v plv ie we) 0 2 = plv := by
  simp (disch := decide) only [prmdSaving, getField_setField_apart, getField_setField_same]

@[simp] theorem prmdSaving_ie : getField (prmdSaving v plv ie we) 2 1 = ie := by
  simp (disch := decide) only [prmdSaving, getField_setField_apart, getField_setField_same]

@[simp] theorem prmdSaving_we : getField (prmdSaving v plv ie we) 3 1 = we := by
  simp (disch := decide) only [prmdSaving, getField_setField_same]

@[simp] theorem tlbrprmdSaving_plv : getField (tlbrprmdSaving v plv ie we) 0 2 = plv := by
  simp (disch := decide) only [tlbrprmdSaving, getField_setField_apart, getField_setField_same]

@[simp] theorem tlbrprmdSaving_ie : getField (tlbrprmdSaving v plv ie we) 2 1 = ie := by
  simp (disch := decide) only [tlbrprmdSaving, getField_setField_apart, getField_setField_same]

@[simp] theorem tlbrprmdSaving_we : getField (tlbrprmdSaving v plv ie we) 4 1 = we := by
  simp (disch := decide) only [tlbrprmdSaving, getField_setField_same]

end savedMode

section crmdTranslation
variable (v : Word32)

@[simp] theorem crmdWithTranslation_da (da pg : BitVec 1) : getField (crmdWithTranslation v da pg) 3 1 = da := by
  simp (disch := decide) only [crmdWithTranslation, getField_setField_apart, getField_setField_same]

@[simp] theorem crmdWithTranslation_pg (da pg : BitVec 1) : getField (crmdWithTranslation v da pg) 4 1 = pg := by
  simp (disch := decide) only [crmdWithTranslation, getField_setField_same]

@[simp] theorem crmdWithAccessTypes_datf (datf datm : BitVec 2) :
    getField (crmdWithAccessTypes v datf datm) 5 2 = datf := by
  simp (disch := decide) only [crmdWithAccessTypes, getField_setField_apart, getField_setField_same]

@[simp] theorem crmdWithAccessTypes_datm (datf datm : BitVec 2) :
    getField (crmdWithAccessTypes v datf datm) 7 2 = datm := by
  simp (disch := decide) only [crmdWithAccessTypes, getField_setField_same]

end crmdTranslation

section estat
variable (v : Word32) (ec : BitVec 6) (es : BitVec 9)

@[simp] theorem estatWithCodes_ecode : getField (estatWithCodes v ec es) 16 6 = ec := by
  simp (disch := decide) only [estatWithCodes, getField_setField_apart, getField_setField_same]

@[simp] theorem estatWithCodes_esubcode : getField (estatWithCodes v ec es) 22 9 = es := by
  simp (disch := decide) only [estatWithCodes, getField_setField_same]

/-- The software interrupts stay as they are. -/
@[simp] theorem estatWithCodes_is : getField (estatWithCodes v ec es) 0 2 = getField v 0 2 := by
  simp (disch := decide) only [estatWithCodes, getField_setField_apart]

end estat

@[simp] theorem watched_we (s : State) : watched s.cfg s.we = s.we := watched_watched s.cfg _

@[simp] theorem watched_zeroBit (c : Config) : watched c 0#1 = 0#1 := watched_zero c

/-! ### The entry of an ordinary exception (R195) -/

/-- An ordinary entry writes none of the registers outside its six, no general register and no memory. -/
theorem takeOrdinary_keeps (e : Exception) (ec : BitVec 6) (es : BitVec 9) (info : TrapInfo) (s : State) :
    Keeps s (takeOrdinary e ec es info s) [] ordinaryEntryCsrs where
  gpr _ _ := rfl
  csr r hr := takeOrdinary_get e ec es info s r hr
  lines := rfl
  oracle := rfl
  cfg := rfl
  memory _ := rfl

theorem ordinaryEntry_takeOrdinary (e : Exception) (ec : BitVec 6) (es : BitVec 9) (info : TrapInfo) (s : State) :
    OrdinaryEntry s (takeOrdinary e ec es info s) ec es where
  pplv := by simp [State.pplv]
  pie := by simp [State.pie]
  pwe := by simp [State.pwe]
  plv := by simp [State.plv]
  ie := by simp [State.ie]
  we := by simp [State.we]
  da := by simp [State.da]
  pg := by simp [State.pg]
  datf := by simp [State.datf]
  datm := by simp [State.datm]
  ecode := by simp [State.ecode]
  esubcode := by simp [State.esubcode]
  interrupts := by simp [State.is]
  era := rfl
  llbit := rfl
  keeps := takeOrdinary_keeps e ec es info s

/-- An exception with codes makes an ordinary entry (R199). -/
theorem ordinaryEntry_raise {e : Exception} {ec : BitVec 6} {es : BitVec 9} (hc : e.codes = some (ec, es))
    (info : TrapInfo) (s : State) : OrdinaryEntry s (raise e info s) ec es := by
  rw [raise_ordinary hc]
  exact ordinaryEntry_takeOrdinary e ec es info s

/-- Only INT enters at another code than its Ecode (R196). -/
theorem raise_pc {e : Exception} {ec : BitVec 6} {es : BitVec 9} (hc : e.codes = some (ec, es)) (hne : e ≠ .int)
    (info : TrapInfo) (s : State) : (raise e info s).pc = s.entry ec.toNat := by
  rw [raise_ordinary hc, takeOrdinary_pc, entryCode]
  exact hne

/-- Settles O40. -/
theorem ordinaryEntryEffect : Obligations.OrdinaryEntryEffect := by
  unfold Obligations.OrdinaryEntryEffect
  exact fun s e ec es info hc => ⟨ordinaryEntry_raise hc info s, fun hne => raise_pc hc hne info s⟩

/-- Settles O47: where base and offset share no bit their sum has no carry. -/
theorem entryAddressIsBasePlusOffset : Obligations.EntryAddressIsBasePlusOffset := by
  unfold Obligations.EntryAddressIsBasePlusOffset
  intro s code
  refine ⟨fun h => if_pos h, fun h => if_neg h, fun h hdisjoint => ?_⟩
  rw [BitVec.add_eq_or_of_and_eq_zero _ _ hdisjoint]
  exact if_neg h

/-- Settles O39. -/
theorem exceptionTableCodes : Obligations.ExceptionTableCodes := by
  unfold Obligations.ExceptionTableCodes
  rfl

/-! ### BADV and BADI -/

theorem raise_badv (e : Exception) (info : TrapInfo) (s : State) :
    (raise e info s).csr.badv = if e.writesBadv then info.badva else s.csr.badv := by
  cases e <;> rfl

theorem raise_tlbrbadv (e : Exception) (info : TrapInfo) (s : State) :
    (raise e info s).csr.tlbrbadv = if e = .tlbr then info.badva else s.csr.tlbrbadv := by
  cases e <;> rfl

theorem raise_badi_eq (e : Exception) (info : TrapInfo) (s : State) :
    (raise e info s).csr.badi = if e.synchronous then badiOf info s else s.csr.badi := by
  cases e <;> rfl

/-- The eleven exceptions of R194. -/
theorem writesBadv_iff (e : Exception) : e.writesBadv = true ↔
    e ∈ ([.adef, .adem, .ale, .bce, .pil, .pis, .pif, .pme, .pnr, .pnx, .ppi] : List Exception) := by
  cases e <;> decide

/-- R187: INT and MERR are the asynchronous ones. -/
theorem synchronous_eq_false_iff (e : Exception) : e.synchronous = false ↔ e = .int ∨ e = .merr := by
  cases e <;> decide

/-- Settles O43. -/
theorem badvWrittenByAddressErrors : Obligations.BadvWrittenByAddressErrors := by
  unfold Obligations.BadvWrittenByAddressErrors
  intro s e info
  refine ⟨fun h => ?_, fun h => ?_, raise_tlbrbadv e info s⟩
  · rw [raise_badv, if_pos ((writesBadv_iff e).mpr h)]
  · rw [raise_badv, if_neg (mt (writesBadv_iff e).mp h)]

/-- Settles O44. -/
theorem synchronousExceptionsWriteBadi : Obligations.SynchronousExceptionsWriteBadi := by
  unfold Obligations.SynchronousExceptionsWriteBadi
  intro s e info w hw
  refine ⟨by cases e <;> decide, synchronous_eq_false_iff e, ?_⟩
  rw [raise_badi_eq, badiOf, hw]
  cases hs : e.synchronous with
  | false => rw [if_pos ((synchronous_eq_false_iff e).mp hs)]; rfl
  | true => rw [if_neg (mt (synchronous_eq_false_iff e).mpr (by simp [hs]))]; rfl

/-! ### An instruction that raises an exception -/

/-- The entry of a synchronous exception that records no address, raised with an instruction word: the ordinary entry,
the word in BADI, BADV kept, no free value drawn. -/
theorem raise_with_word {e : Exception} {ec : BitVec 6} {es : BitVec 9} (hc : e.codes = some (ec, es))
    (hsync : e.synchronous = true) (hbadv : e.writesBadv = false) (w : Word32) (a : Word) (s : State) :
    OrdinaryEntry s (raise e ⟨some w, a⟩ s) ec es ∧ (raise e ⟨some w, a⟩ s).csr.badi = w ∧
      (raise e ⟨some w, a⟩ s).csr.badv = s.csr.badv ∧ (raise e ⟨some w, a⟩ s).draws = s.draws ∧
      (raise e ⟨some w, a⟩ s).pc = s.entry ec.toNat := by
  have hne : e ≠ .int := by rintro rfl; cases hsync
  refine ⟨ordinaryEntry_raise hc _ s, raise_badi hc hsync rfl s, ?_, ?_, raise_pc hc hne _ s⟩
  · rw [raise_badv, hbadv]; rfl
  · rw [raise_ordinary hc, takeOrdinary, Option.isNone_some, Bool.and_false]; rfl

/-- A word of 17 fixed bits and a code is the code under them. -/
theorem append_eq_or_setWidth (op : BitVec 17) (code : BitVec 15) :
    op ++ code = (op ++ 0#15) ||| code.setWidth 32 := by
  have hcode : code.setWidth 32 = 0#17 ++ code := BitVec.setWidth_eq_append (by decide)
  rw [hcode, BitVec.or_append, BitVec.or_zero, BitVec.zero_or]

/-- Settles O37. -/
theorem syscallRaisesSys : Obligations.SyscallRaisesSys := by
  unfold Obligations.SyscallRaisesSys
  intro s code
  have hword : encode (.syscall code) = 0x002B0000 ||| code.setWidth 32 := append_eq_or_setWidth _ code
  rw [← hword]
  exact ⟨_, rfl, raise_with_word rfl rfl rfl (encode (.syscall code)) 0 s⟩

/-- Settles O38. -/
theorem breakRaisesBrk : Obligations.BreakRaisesBrk := by
  unfold Obligations.BreakRaisesBrk
  intro s code
  have hword : encode (.brk code) = 0x002A0000 ||| code.setWidth 32 := append_eq_or_setWidth _ code
  rw [← hword]
  exact ⟨_, rfl, raise_with_word rfl rfl rfl (encode (.brk code)) 0 s⟩

/-- The four privileged instructions (R120, R140). -/
def IsPrivileged (i : Instr) : Prop :=
  (∃ rd n, i = .csrrd rd n) ∨ (∃ rd n, i = .csrwr rd n) ∨ (∃ rd rj n, i = .csrxchg rd rj n) ∨ i = .ertn

theorem exec_of_isPrivileged {i : Instr} (hi : IsPrivileged i) {s : State} (hp : s.plv ≠ 0) :
    exec i s = .next (raise .ipe ⟨some (encode i), 0⟩ s) := by
  rcases hi with ⟨rd, n, rfl⟩ | ⟨rd, n, rfl⟩ | ⟨rd, rj, n, rfl⟩ | rfl <;> exact if_neg hp

/-- The disjunction in which the obligations name the four. -/
theorem isPrivileged_of_eq {i : Instr} {rd rj : Reg} {n : CsrNum}
    (h : i = .csrrd rd n ∨ i = .csrwr rd n ∨ i = .csrxchg rd rj n ∨ i = .ertn) : IsPrivileged i := by
  rcases h with h | h | h | h
  · exact .inl ⟨rd, n, h⟩
  · exact .inr (.inl ⟨rd, n, h⟩)
  · exact .inr (.inr (.inl ⟨rd, rj, n, h⟩))
  · exact .inr (.inr (.inr h))

/-- Settles O32. -/
theorem privilegedInstructionsRaiseIpe : Obligations.PrivilegedInstructionsRaiseIpe := by
  unfold Obligations.PrivilegedInstructionsRaiseIpe
  intro s rd rj n i hp hi
  exact ⟨_, exec_of_isPrivileged (isPrivileged_of_eq hi) hp, raise_with_word rfl rfl rfl (encode i) 0 s⟩

/-! ### The entry of the TLB refill exception (R198) -/

theorem raise_tlbr (info : TrapInfo) (s : State) : raise .tlbr info s = takeTlbRefill info s := rfl

section tlbRefill
variable (info : TrapInfo) (s : State)

@[simp] theorem takeTlbRefill_crmd :
    (takeTlbRefill info s).csr.crmd = crmdWithTranslation (crmdWithMode s.csr.crmd 0 0 0) 1 0 := rfl
@[simp] theorem takeTlbRefill_tlbrprmd :
    (takeTlbRefill info s).csr.tlbrprmd = tlbrprmdSaving s.csr.tlbrprmd s.plv s.ie s.we := rfl
@[simp] theorem takeTlbRefill_tlbrera :
    (takeTlbRefill info s).csr.tlbrera = setField (setField s.csr.tlbrera 2 (getField s.pc 2 62)) 0 1#1 := rfl

theorem takeTlbRefill_keeps : Keeps s (takeTlbRefill info s) [] [.crmd, .tlbrprmd, .tlbrera, .tlbrbadv, .badi] where
  gpr _ _ := rfl
  csr r hr := takeTlbRefill_get info s r hr
  lines := rfl
  oracle := rfl
  cfg := rfl
  memory _ := rfl

/-- The mode a TLB refill saves. -/
theorem takeTlbRefill_saves : (takeTlbRefill info s).tlbrPplv = s.plv ∧ (takeTlbRefill info s).tlbrPie = s.ie ∧
    (takeTlbRefill info s).tlbrPwe = s.we := by
  refine ⟨?plv, ?ie, ?we⟩
  case plv => simp [State.tlbrPplv]
  case ie => simp [State.tlbrPie]
  case we => simp [State.tlbrPwe]

/-- The mode a TLB refill handler starts in: PLV0, no interrupts, direct translation. -/
theorem takeTlbRefill_mode : (takeTlbRefill info s).plv = 0 ∧ (takeTlbRefill info s).ie = 0 ∧
    (takeTlbRefill info s).we = 0 ∧ (takeTlbRefill info s).da = 1 ∧ (takeTlbRefill info s).pg = 0 ∧
    (takeTlbRefill info s).datf = s.datf ∧ (takeTlbRefill info s).datm = s.datm := by
  refine ⟨?plv, ?ie, ?we, ?da, ?pg, ?datf, ?datm⟩
  case plv => simp [State.plv]
  case ie => simp [State.ie]
  case we => simp [State.we]
  case da => simp [State.da]
  case pg => simp [State.pg]
  case datf => simp [State.datf]
  case datm => simp [State.datm]

theorem takeTlbRefill_isTlbr : (takeTlbRefill info s).isTlbr = 1 := by
  rw [State.isTlbr, takeTlbRefill_tlbrera, getField_setField_same _ _ _ (by decide)]
  rfl

theorem takeTlbRefill_era :
    getField (takeTlbRefill info s).csr.tlbrera 2 62 = getField s.pc 2 62 := by
  rw [takeTlbRefill_tlbrera, getField_setField_apart _ _ _ _ _ (by decide), getField_setField_same _ _ _ (by decide)]

end tlbRefill

/-- Settles O41. -/
theorem tlbRefillEntryEffect : Obligations.TlbRefillEntryEffect := by
  unfold Obligations.TlbRefillEntryEffect
  intro s info w hw
  obtain ⟨hpplv, hpie, hpwe⟩ := takeTlbRefill_saves info s
  obtain ⟨hplv, hie, hwe, hda, hpg, hdatf, hdatm⟩ := takeTlbRefill_mode info s
  have hbadi : (takeTlbRefill info s).csr.badi = w := by simp [takeTlbRefill, badiOf, hw]
  have hdraws : (takeTlbRefill info s).draws = s.draws := by simp [takeTlbRefill, hw]
  exact ⟨_, raise_tlbr info s, hpplv, hpie, hpwe, hplv, hie, hwe, hda, hpg, hdatf, hdatm, takeTlbRefill_isTlbr info s,
    takeTlbRefill_era info s, rfl, hbadi, rfl, rfl, hdraws, takeTlbRefill_keeps info s⟩

/-! ### The entry of the machine error exception (R200) -/

theorem raise_merr (info : TrapInfo) (s : State) : raise .merr info s = takeMachineError s := rfl

section machineError
variable (s : State)

@[simp] theorem takeMachineError_crmd : (takeMachineError s).csr.crmd =
    crmdWithAccessTypes (crmdWithTranslation (crmdWithMode s.csr.crmd 0 0 0) 1 0) 0 0 := rfl
@[simp] theorem takeMachineError_merrctl : (takeMachineError s).csr.merrctl =
    merrctlSaving s.csr.merrctl s (Config.merrRepairable s.draws) (Config.merrCause s.draws) := rfl

theorem takeMachineError_keeps :
    Keeps s (takeMachineError s) [] [.crmd, .merrctl, .merrera, .merrinfo1, .merrinfo2] where
  gpr _ _ := rfl
  csr r hr := takeMachineError_get s r hr
  lines := rfl
  oracle := rfl
  cfg := rfl
  memory _ := rfl

/-- The mode and the translation fields a machine error saves. -/
theorem merrctlSaving_fields (v : Word32) (repairable : BitVec 1) (cause : BitVec 8) :
    let m := merrctlSaving v s repairable cause
    getField m 2 2 = s.plv ∧ getField m 4 1 = s.ie ∧ getField m 6 1 = s.we ∧ getField m 7 1 = s.da ∧
      getField m 8 1 = s.pg ∧ getField m 9 2 = s.datf ∧ getField m 11 2 = s.datm ∧ getField m 0 1 = 1 ∧
      getField m 1 1 = repairable ∧ getField m 16 8 = cause := by
  simp (disch := decide) only [merrctlSaving, getField_setField_apart, getField_setField_same, and_self]
  decide

/-- The mode a machine error handler starts in: PLV0, no interrupts, direct translation. -/
theorem takeMachineError_mode : (takeMachineError s).plv = 0 ∧ (takeMachineError s).ie = 0 ∧
    (takeMachineError s).we = 0 ∧ (takeMachineError s).da = 1 ∧ (takeMachineError s).pg = 0 ∧
    (takeMachineError s).datf = 0 ∧ (takeMachineError s).datm = 0 := by
  refine ⟨?plv, ?ie, ?we, ?da, ?pg, ?datf, ?datm⟩
  case plv => simp [State.plv]
  case ie => simp [State.ie]
  case we => simp [State.we]
  case da => simp [State.da]
  case pg => simp [State.pg]
  case datf => simp [State.datf]
  case datm => simp [State.datm]

end machineError

/-- Settles O42. -/
theorem machineErrorEntryEffect : Obligations.MachineErrorEntryEffect := by
  unfold Obligations.MachineErrorEntryEffect
  intro s info
  obtain ⟨hpplv, hpie, hpwe, hpda, hppg, hpdatf, hpdatm, hmerr, hrep, hcause⟩ :=
    merrctlSaving_fields s s.csr.merrctl (Config.merrRepairable s.draws) (Config.merrCause s.draws)
  obtain ⟨hplv, hie, hwe, hda, hpg, hdatf, hdatm⟩ := takeMachineError_mode s
  have hwatched : (takeMachineError s).merrPwe = s.we := (congrArg (watched s.cfg) hpwe).trans (watched_we s)
  exact ⟨_, raise_merr info s, hpplv, hpie, hwatched, hpda, hppg, hpdatf, hpdatm, hmerr, hrep, hcause, rfl, rfl, rfl,
    hplv, hie, hwe, hda, hpg, hdatf, hdatm, rfl, rfl, rfl, takeMachineError_keeps s⟩

/-! ### The codes a step records -/

theorem raise_esubcode {e : Exception} {ec : BitVec 6} {es : BitVec 9} (hc : e.codes = some (ec, es)) (info : TrapInfo)
    (s : State) : (raise e info s).esubcode = es :=
  (ordinaryEntry_raise hc info s).esubcode

/-- ESUBCODE is none of software's bits. -/
theorem HardwareBitsKept.esubcode {s t : State} (h : HardwareBitsKept s t .estat) : t.esubcode = s.esubcode := by
  apply BitVec.eq_of_getLsbD_eq
  intro b hb
  have hbit := h (22 + b) (by simp [softwareWritable]; omega)
  have hlt : 22 + b < 64 := by omega
  simp only [Csrs.get, BitVec.getLsbD_setWidth, hlt, decide_true, Bool.true_and] at hbit
  rw [State.esubcode, State.esubcode, getLsbD_getField, getLsbD_getField, hbit]

/-- The codes of the five exceptions that the machine raises. -/
theorem codes_of_raised {e : Exception} (he : e ∈ ([.int, .adef, .sys, .brk, .ipe] : List Exception)) :
    ∃ ec ∈ ([0, 0x8, 0xB, 0xC, 0xE] : List (BitVec 6)), e.codes = some (ec, 0) := by
  revert e
  decide

/-- Settles O45: the entries of the three, and what a step does with the codes of ESTAT. -/
theorem fpeVfpeWpemRecordedButNeverRaised : Obligations.FpeVfpeWpemRecordedButNeverRaised := by
  unfold Obligations.FpeVfpeWpemRecordedButNeverRaised
  constructor
  · rintro s e info w hw (rfl | rfl | rfl)
    · exact ⟨raise_badi rfl rfl hw s, fun _ => ⟨raise_ecode rfl info s, raise_esubcode rfl info s, rfl⟩, nofun, nofun⟩
    · exact ⟨raise_badi rfl rfl hw s, nofun, fun _ => ⟨raise_ecode rfl info s, raise_esubcode rfl info s, rfl⟩, nofun⟩
    · exact ⟨raise_badi rfl rfl hw s, nofun, nofun, fun _ => ⟨raise_ecode rfl info s, raise_esubcode rfl info s, rfl⟩⟩
  · intro s t hstep
    rcases step_raises_or_keeps_estat hstep with ⟨e, he, info, rfl⟩ | hkept
    · obtain ⟨ec, hmem, hc⟩ := codes_of_raised he
      exact .inr ⟨raise_esubcode hc info s.sample, (raise_ecode hc info s.sample).symm ▸ hmem⟩
    · exact .inl ⟨hkept.ecode, hkept.esubcode⟩

/-! ### What a step raises at a boundary -/

/-- The winning interrupt is the highest one that is pending and enabled (R191). -/
theorem winner_eq {s : State} {i : Nat} (hi : s.pending.getLsbD i = true)
    (hhigh : ∀ j, i < j → s.pending.getLsbD j = false) : s.winner = i := by
  have hlow : 2 ^ i ≤ s.pending.toNat := Nat.ge_two_pow_of_testBit hi
  have hupp : s.pending.toNat < 2 ^ (i + 1) := Nat.lt_pow_two_of_testBit _ hhigh
  have hne : s.pending.toNat ≠ 0 := by have := Nat.two_pow_pos i; omega
  exact (Nat.log2_eq_iff hne).mpr ⟨hlow, hupp⟩

/-- Settles O13. -/
theorem stepTakesInterrupt : Obligations.StepTakesInterrupt := by
  unfold Obligations.StepTakesInterrupt
  intro s i hi hie his hlie hhigh
  have htakes : s.sample.takesInterrupt = true :=
    (interruptTakenExactlyWhenEnabled s.sample).mpr ⟨by simpa using hie, i, hi, his, by simpa using hlie⟩
  have hentry : OrdinaryEntry s.sample (raise .int ⟨none, 0⟩ s.sample) 0 0 := ordinaryEntry_raise rfl _ _
  have hwinner : s.sample.winner = i := by
    apply winner_eq
    · simp [State.pending, his, hlie]
    · intro j hj
      rw [State.pending, BitVec.getLsbD_and, sample_lie]
      by_cases h13 : j < 13
      · rcases hhigh j hj h13 with h | h <;> simp [h]
      · simp [BitVec.getLsbD_of_ge s.lie j (Nat.not_lt.mp h13)]
  refine ⟨_, step_of_interrupt htakes, hentry, ?badv, ?badi, ?draws, ?pc, ?pending⟩
  case badv => rw [raise_badv, sample_csr]; rfl
  case badi => rw [raise_badi_eq, sample_csr]; rfl
  case draws => exact sample_draws s
  case pc =>
    rw [raise_ordinary rfl, takeOrdinary_pc, entryCode, hwinner, sample_entry]
  case pending =>
    rw [State.pending, State.pending, hentry.interrupts]
    rfl

/-- Settles O14. -/
theorem stepRaisesAdefOnMisalignedPc : Obligations.StepRaisesAdefOnMisalignedPc := by
  unfold Obligations.StepRaisesAdefOnMisalignedPc
  intro s hi hda hpg ha
  refine ⟨_, step_of_misalignedPc hi hda hpg ha, ordinaryEntry_raise rfl _ _, ?badv, ?badi, ?draws, ?pc⟩
  case badv => rw [raise_badv]; rfl
  case badi => rw [raise_badi_eq, ← sample_draws s]; rfl
  case draws => rw [← sample_draws s]; rfl
  case pc =>
    have hcodes : Exception.codes .adef = some (0x8, 0) := rfl
    rw [raise_pc hcodes nofun, sample_entry]
    rfl

end Sys2Proof.Proofs
end

section
/-! SUPPORT. ERTN (`41_exception_return.md` R140) after an entry: what the return writes in each scene, and that it
undoes the ordinary entry and the TLB refill entry. -/

namespace Sys2Proof.Proofs

open Sys2Proof.Machine Sys2Proof.Laws

/-! ### What is kept -/

/-- What two changes keep one after the other. -/
theorem keeps_trans {s t u : State} {regs regs' : List Reg} {csrs csrs' : List Csr} (h : Keeps s t regs csrs)
    (h' : Keeps t u regs' csrs') (hregs : regs' ⊆ regs) (hcsrs : csrs' ⊆ csrs) : Keeps s u regs csrs where
  gpr i hi := (h'.gpr i (mt (@hregs i) hi)).trans (h.gpr i hi)
  csr r hr := (h'.csr r (mt (@hcsrs r) hr)).trans (h.csr r hr)
  lines := h'.lines.trans h.lines
  oracle := h'.oracle.trans h.oracle
  cfg := h'.cfg.trans h.cfg
  memory a := (h'.memory a).trans (h.memory a)

/-! ### What the return writes -/

section returnFrom
variable (s : State)

theorem returnFrom_merrctl : (returnFrom s).csr.merrctl =
    if s.scene = .machineError then setField s.csr.merrctl 0 0#1 else s.csr.merrctl := rfl

theorem returnFrom_tlbrera : (returnFrom s).csr.tlbrera =
    if s.scene = .tlbRefill then setField s.csr.tlbrera 0 0#1 else s.csr.tlbrera := rfl

theorem returnFrom_keeps : Keeps s (returnFrom s) [] [.crmd, .merrctl, .tlbrera] where
  gpr _ _ := rfl
  csr r hr := returnFrom_get s r hr
  lines := rfl
  oracle := rfl
  cfg := rfl
  memory _ := rfl

end returnFrom

section scenes
variable {s : State}

/-- The translation fields come from MERRCTL, and IsMERR is cleared. -/
theorem returnFrom_machineError_effects (h : s.scene = .machineError) :
    (returnFrom s).da = s.merrPda ∧ (returnFrom s).pg = s.merrPpg ∧ (returnFrom s).datf = s.merrPdatf ∧
      (returnFrom s).datm = s.merrPdatm ∧ (returnFrom s).isMerr = 0 ∧
      getField (returnFrom s).csr.merrctl 1 31 = getField s.csr.merrctl 1 31 ∧
      (returnFrom s).csr.tlbrera = s.csr.tlbrera := by
  refine ⟨?da, ?pg, ?datf, ?datm, ?flag, ?rest, ?tlbrera⟩
  case da => simp [State.da, restoredCrmd, h]
  case pg => simp [State.pg, restoredCrmd, h]
  case datf => simp [State.datf, restoredCrmd, h]
  case datm => simp [State.datm, restoredCrmd, h]
  case flag =>
    rw [State.isMerr, returnFrom_merrctl, if_pos h, getField_setField_same _ _ _ (by decide)]
    rfl
  case rest => rw [returnFrom_merrctl, if_pos h, getField_setField_apart _ _ _ _ _ (by decide)]
  case tlbrera => rw [returnFrom_tlbrera, h, if_neg nofun]

/-- Mapped translation is restored, and IsTLBR is cleared. -/
theorem returnFrom_tlbRefill_effects (h : s.scene = .tlbRefill) :
    (returnFrom s).da = 0 ∧ (returnFrom s).pg = 1 ∧ (returnFrom s).datf = s.datf ∧ (returnFrom s).datm = s.datm ∧
      (returnFrom s).isTlbr = 0 ∧ getField (returnFrom s).csr.tlbrera 1 63 = getField s.csr.tlbrera 1 63 ∧
      (returnFrom s).csr.merrctl = s.csr.merrctl := by
  refine ⟨?da, ?pg, ?datf, ?datm, ?flag, ?rest, ?merrctl⟩
  case da => simp [State.da, restoredCrmd, h]
  case pg => simp [State.pg, restoredCrmd, h]
  case datf => simp [State.datf, restoredCrmd, h]
  case datm => simp [State.datm, restoredCrmd, h]
  case flag =>
    rw [State.isTlbr, returnFrom_tlbrera, if_pos h, getField_setField_same _ _ _ (by decide)]
    rfl
  case rest => rw [returnFrom_tlbrera, if_pos h, getField_setField_apart _ _ _ _ _ (by decide)]
  case merrctl => rw [returnFrom_merrctl, h, if_neg nofun]

/-- The ordinary scene writes PLV, IE and WE only. -/
theorem returnFrom_ordinary_effects (h : s.scene = .ordinary) :
    (returnFrom s).da = s.da ∧ (returnFrom s).pg = s.pg ∧ (returnFrom s).datf = s.datf ∧
      (returnFrom s).datm = s.datm ∧ (returnFrom s).csr.merrctl = s.csr.merrctl ∧
      (returnFrom s).csr.tlbrera = s.csr.tlbrera := by
  refine ⟨?da, ?pg, ?datf, ?datm, ?merrctl, ?tlbrera⟩
  case da => simp [State.da, restoredCrmd, h]
  case pg => simp [State.pg, restoredCrmd, h]
  case datf => simp [State.datf, restoredCrmd, h]
  case datm => simp [State.datm, restoredCrmd, h]
  case merrctl => rw [returnFrom_merrctl, h, if_neg nofun]
  case tlbrera => rw [returnFrom_tlbrera, h, if_neg nofun]

end scenes

/-- Settles O34: one return, read in the scene that the two flags select. -/
theorem ertnSceneEffects : Obligations.ErtnSceneEffects := by
  unfold Obligations.ErtnSceneEffects
  intro s hp hl
  exact ⟨returnFrom s, exec_ertn hp hl, returnFrom_keeps s, rfl, rfl,
    fun hm => returnFrom_machineError_effects (scene_machineError hm),
    fun hm ht => returnFrom_tlbRefill_effects (scene_tlbRefill hm ht),
    fun hm ht => returnFrom_ordinary_effects (scene_ordinary hm ht)⟩

/-! ### The return from an entry -/

/-- The return from the ordinary scene stores into CRMD only. -/
theorem returnFrom_ordinary_keeps {s : State} (h : s.scene = .ordinary) : Keeps s (returnFrom s) [] [.crmd] where
  gpr _ _ := rfl
  csr r hr := by
    obtain ⟨-, -, -, -, hmerrctl, htlbrera⟩ := returnFrom_ordinary_effects h
    cases r with
    | crmd => simp at hr
    | merrctl => exact congrArg (BitVec.setWidth 64) hmerrctl
    | tlbrera => exact htlbrera
    | _ => rfl
  lines := rfl
  oracle := rfl
  cfg := rfl
  memory _ := rfl

/-- The return from the TLB refill scene stores into CRMD and TLBRERA only. -/
theorem returnFrom_tlbRefill_keeps {s : State} (h : s.scene = .tlbRefill) :
    Keeps s (returnFrom s) [] [.crmd, .tlbrera] where
  gpr _ _ := rfl
  csr r hr := by
    obtain ⟨-, -, -, -, -, -, hmerrctl⟩ := returnFrom_tlbRefill_effects h
    cases r with
    | crmd => simp at hr
    | tlbrera => simp at hr
    | merrctl => exact congrArg (BitVec.setWidth 64) hmerrctl
    | _ => rfl
  lines := rfl
  oracle := rfl
  cfg := rfl
  memory _ := rfl

/-- Settles O35: the entry saves the mode and the pc where the return of the ordinary scene finds them, and touches
neither flag. -/
theorem ertnUndoesOrdinaryEntry : Obligations.ErtnUndoesOrdinaryEntry := by
  unfold Obligations.ErtnUndoesOrdinaryEntry
  intro s e info hcodes hm ht hl
  obtain ⟨⟨ec, es⟩, hc⟩ := Option.isSome_iff_exists.mp hcodes
  rw [raise_ordinary hc]
  have hentry := ordinaryEntry_takeOrdinary e ec es info s
  have hscene : (takeOrdinary e ec es info s).scene = .ordinary := scene_ordinary hm ht
  have hsaved : (takeOrdinary e ec es info s).savedPlv = s.plv := by
    rw [State.savedPlv, hscene]
    exact hentry.pplv
  obtain ⟨hplv, hie, hwe, hpc⟩ := returnFrom_ordinary hscene
  obtain ⟨hda, hpg, hdatf, hdatm, -, -⟩ := returnFrom_ordinary_effects hscene
  exact ⟨_, exec_ertn hentry.plv (by rw [hsaved]; exact hl), hpc, hplv.trans hentry.pplv, hie.trans hentry.pie,
    hwe.trans hentry.pwe, hda.trans hentry.da, hpg.trans hentry.pg, hdatf.trans hentry.datf, hdatm.trans hentry.datm,
    keeps_trans hentry.keeps (returnFrom_ordinary_keeps hscene) (List.nil_subset _) (by decide)⟩

/-! ### The return address of a TLB refill -/

theorem getLsbD_not_three {b : Nat} (hb : b < 64) : (~~~3 : Word).getLsbD b = decide (2 ≤ b) := by
  revert b
  decide

/-- TLBRERA holds bits 63:2 of the pc, and the return clears the two below. -/
theorem setField_pc_aligned (v pc : Word) (f : BitVec 1) :
    setField (setField v 2 (getField pc 2 62)) 0 f &&& ~~~3 = pc &&& ~~~3 := by
  apply BitVec.eq_of_getLsbD_eq
  intro b hb
  rw [BitVec.getLsbD_and, BitVec.getLsbD_and, getLsbD_not_three hb]
  by_cases h2 : 2 ≤ b
  · rw [getLsbD_setField, if_neg (by omega), getLsbD_setField, if_pos (by omega), getLsbD_getField]
    simp [show b - 2 < 62 by omega, show 2 + (b - 2) = b by omega]
  · simp [h2]

/-- An aligned address keeps its bits when the two lowest are cleared. -/
theorem and_not_three_of_aligned {pc : Word} (h : getField pc 0 2 = 0) : pc &&& ~~~3 = pc := by
  apply BitVec.eq_of_getLsbD_eq
  intro b hb
  rw [BitVec.getLsbD_and, getLsbD_not_three hb]
  by_cases h2 : 2 ≤ b
  · rw [decide_eq_true h2, Bool.and_true]
  · have hfield : (getField pc 0 2).getLsbD b = pc.getLsbD b := by
      rw [getLsbD_getField, decide_eq_true (by omega), Bool.true_and, Nat.zero_add]
    have hzero : pc.getLsbD b = false := by
      rw [← hfield, h]
      exact BitVec.getLsbD_zero
    rw [hzero, Bool.false_and]

theorem narrow_and (c : Config) (v m : Word) : narrow c v &&& m = narrow c (v &&& m) := by
  rw [narrow, narrow, BitVec.and_assoc, BitVec.and_comm (grMask c), ← BitVec.and_assoc]

/-- Settles O36: the refill saves its mode in registers of its own, so the outer handler's are kept. -/
theorem ertnUndoesTlbRefillEntry : Obligations.ErtnUndoesTlbRefillEntry := by
  unfold Obligations.ErtnUndoesTlbRefillEntry
  intro s info hm _ _ hl ha
  rw [raise_tlbr]
  have hscene : (takeTlbRefill info s).scene = .tlbRefill := scene_tlbRefill hm (takeTlbRefill_isTlbr info s)
  obtain ⟨hpplv, hpie, hpwe⟩ := takeTlbRefill_saves info s
  obtain ⟨hentry, -⟩ := takeTlbRefill_mode info s
  have hsaved : (takeTlbRefill info s).savedPlv = s.plv := by
    rw [State.savedPlv, hscene]
    exact hpplv
  obtain ⟨hplv, hie, hwe, hpc⟩ := returnFrom_tlbRefill hscene
  obtain ⟨hda, hpg, -, -, hflag, -, -⟩ := returnFrom_tlbRefill_effects hscene
  have htarget : (returnFrom (takeTlbRefill info s)).pc = narrow s.cfg s.pc := by
    rw [hpc, takeTlbRefill_cfg, takeTlbRefill_tlbrera, narrow_and, setField_pc_aligned, and_not_three_of_aligned ha]
  exact ⟨_, exec_ertn hentry (by rw [hsaved]; exact hl), htarget, hplv.trans hpplv, hie.trans hpie, hwe.trans hpwe,
    hda, hpg, hflag,
    keeps_trans (takeTlbRefill_keeps info s) (returnFrom_tlbRefill_keeps hscene) (List.nil_subset _) (by decide)⟩

end Sys2Proof.Proofs
end

section
/-! SUPPORT. The numbers of the CSRs (`10_state.md` R14, R15) and the value of a CSR bit by bit (R16, R22). -/

namespace Sys2Proof.Proofs

open Sys2Proof.Machine Sys2Proof.Laws

/-! ### Numbers -/

theorem csr_num_lt (r : Csr) : r.num < 2 ^ 14 := by
  cases r with
  | save n => have := n.isLt; simp only [Csr.num]; omega
  | _ => decide

/-- The number of a register that the core has addresses it. -/
theorem csrOfNum_ofNat {c : Config} {r : Csr} (hi : r.implemented c = true) :
    csrOfNum c (BitVec.ofNat 14 r.num) = some r := by
  refine csrOfNum_num ?_ hi
  rw [BitVec.toNat_ofNat, Nat.mod_eq_of_lt (csr_num_lt r)]

/-- Every core has the 48 single registers (R15). -/
theorem implemented_of_single {r : Csr} (hr : r ∈ singleCsrs) (c : Config) : r.implemented c = true := by
  cases r with
  | save n => simp [singleCsrs] at hr
  | _ => rfl

/-- The table of R15 is the list of the single registers, each with its number and its width class. -/
theorem inventory_eq :
    inventoryLow ++ inventoryHigh = singleCsrs.map fun r => (BitVec.ofNat 14 r.num, r, r.wide) := rfl

/-- Settles O15: the lookup gives the register that has the number. -/
theorem csrNumbersAndWidths : Obligations.CsrNumbersAndWidths := by
  unfold Obligations.CsrNumbersAndWidths
  intro c
  rw [inventory_eq]
  refine ⟨fun row hrow => ?rows, fun n hn => ⟨?saves, rfl⟩, fun n r h => ?others⟩
  case rows =>
    obtain ⟨r, hr, rfl⟩ := List.mem_map.mp hrow
    exact ⟨csrOfNum_ofNat (implemented_of_single hr c), rfl⟩
  case saves =>
    have himpl : Csr.implemented c (.save n) = true := decide_eq_true hn
    exact csrOfNum_ofNat himpl
  case others =>
    obtain ⟨hnum, himpl⟩ := csrOfNum_some h
    have hn : n = BitVec.ofNat 14 r.num := by rw [hnum, BitVec.ofNat_toNat, BitVec.setWidth_eq]
    rcases List.mem_append.mp (mem_csrs r) with hsingle | hsave
    · exact .inl ⟨r.wide, List.mem_map.mpr ⟨r, hsingle, by rw [hn]⟩⟩
    · obtain ⟨k, -, rfl⟩ := List.mem_map.mp hsave
      exact .inr ⟨k, of_decide_eq_true himpl, hn, rfl⟩

/-! ### The value of a CSR -/

/-- What software may write is a field. -/
theorem getLsbD_fieldMask_of_writable {c : Config} {r : Csr} {b : Nat} (h : softwareWritable c r b = true) :
    (r.fieldMask c).getLsbD b = true := by
  have hw : (r.writeMask c).getLsbD b = true := (getLsbD_writeMask c r b).trans h
  have hb : b < 64 := BitVec.lt_of_getLsbD hw
  have hsub := congrArg (·.getLsbD b) (writeMask_sub_fieldMask c r)
  simpa [hw, hb] using hsub

/-- The reserved and hardwired bits are none of the fields. -/
theorem getLsbD_fieldMask_of_readsZero {c : Config} {r : Csr} {b : Nat} (h : readsZero c r b = true) :
    (r.fieldMask c).getLsbD b = false := by
  by_cases hb : b < 64
  · cases r with
    | crmd | prmd | tlbrprmd | merrctl =>
      revert h
      simp only [Csr.fieldMask, watchMask, readsZero]
      cases c.watch <;> (revert b; decide)
    | ecfg | estat =>
      revert h
      simp only [Csr.fieldMask, readsZero]
      revert b; decide
    | eentry =>
      have hlow : b < c.eentryZeroBits := of_decide_eq_true h
      simp [Csr.fieldMask, hlow]
    | tlbrentry =>
      have hlow : (~~~0xFFF : Word).getLsbD b = false := by
        revert h; simp only [readsZero]; revert b; decide
      exact (getLsbD_grMask_and hlow).trans (Bool.false_and _)
    | tlbrera =>
      have hlow : (~~~0x2 : Word).getLsbD b = false := by
        revert h; simp only [readsZero]; revert b; decide
      exact (getLsbD_grMask_and hlow).trans (Bool.false_and _)
    | _ => cases h
  · exact BitVec.getLsbD_of_ge _ b (Nat.not_lt.mp hb)

/-- Every register but ESTAT has its stored fields for a value (R121). -/
theorem csrValue_eq (s : State) {r : Csr} (h : r ≠ .estat) : s.csrValue r = s.csr.get r &&& r.fieldMask s.cfg := by
  cases r <;> first | rfl | exact absurd rfl h

/-- ESTAT shows the lines beside its stored fields (R22, R65). -/
theorem getLsbD_csrValue_estat (s : State) {b : Nat} (hb : b < 64) :
    (s.csrValue .estat).getLsbD b =
      ((s.csr.estat.getLsbD b && (0x7FFF0003 : Word).getLsbD b) || (decide (2 ≤ b) && s.lines.getLsbD (b - 2))) := by
  have hlines : (linesInEstat s).getLsbD b = (decide (2 ≤ b) && s.lines.getLsbD (b - 2)) := by
    rw [linesInEstat, BitVec.getLsbD_shiftLeft, BitVec.getLsbD_setWidth]
    by_cases h2 : 2 ≤ b
    · simp [hb, h2, show b - 2 < 64 by omega, show ¬ b < 2 by omega]
    · simp [h2, show b < 2 by omega]
  change ((s.csr.estat.setWidth 64 &&& 0x7FFF0003) ||| linesInEstat s).getLsbD b = _
  rw [BitVec.getLsbD_or, BitVec.getLsbD_and, hlines, BitVec.getLsbD_setWidth, decide_eq_true hb, Bool.true_and]

/-- A software-writable bit reads as it is stored. -/
theorem getLsbD_csrValue_of_writable {s : State} {r : Csr} {b : Nat} (h : softwareWritable s.cfg r b = true) :
    (s.csrValue r).getLsbD b = (s.csr.get r).getLsbD b := by
  have hfield := getLsbD_fieldMask_of_writable h
  by_cases hr : r = .estat
  · subst hr
    have hlow : b ≤ 1 := of_decide_eq_true h
    have hmask : (0x7FFF0003 : Word).getLsbD b = true := hfield
    rw [getLsbD_csrValue_estat s (by omega), hmask]
    simp [Csrs.get, show b < 64 by omega, show ¬ 2 ≤ b by omega]
  · rw [csrValue_eq s hr, BitVec.getLsbD_and, hfield, Bool.and_true]

/-- Reserved and hardwired bits are 0 in the value (R16). -/
theorem getLsbD_csrValue_of_readsZero {s : State} {r : Csr} {b : Nat} (h : readsZero s.cfg r b = true) :
    (s.csrValue r).getLsbD b = false := by
  by_cases hb : b < 64
  · have hfield := getLsbD_fieldMask_of_readsZero h
    by_cases hr : r = .estat
    · subst hr
      have hhigh : 13 ≤ b := by simp [readsZero] at h; omega
      have hmask : (0x7FFF0003 : Word).getLsbD b = false := hfield
      rw [getLsbD_csrValue_estat s hb, hmask, BitVec.getLsbD_of_ge s.lines (b - 2) (by omega)]
      simp
    · rw [csrValue_eq s hr, BitVec.getLsbD_and, hfield, Bool.and_false]
  · exact BitVec.getLsbD_of_ge _ b (Nat.not_lt.mp hb)

/-! ### What a general register gets of it -/

/-- The bits of a sign-extended 32-bit value (R14). -/
theorem getLsbD_sext32 (c : Config) (w : Word32) {b : Nat} (hb : b < 64) :
    (sext32 c w).getLsbD b =
      if b < 32 then w.getLsbD b else decide (c.arch = .la64) && w.getLsbD 31 := by
  unfold sext32
  cases c.arch with
  | la32 =>
    by_cases h32 : b < 32
    · simp [h32, hb]
    · simp [h32, BitVec.getLsbD_of_ge w b (Nat.not_lt.mp h32)]
  | la64 =>
    rw [BitVec.getLsbD_signExtend, decide_eq_true hb, Bool.true_and]
    simp [BitVec.msb_eq_getLsbD_last]

/-- Below bit 32 a general register gets the bits of the CSR. -/
theorem getLsbD_csrForGr_low (s : State) (r : Csr) {b : Nat} (hb : b < 32) :
    (s.csrForGr r).getLsbD b = (s.csrValue r).getLsbD b := by
  unfold State.csrForGr
  split
  · rfl
  · rw [getLsbD_sext32 _ _ (by omega), if_pos hb, BitVec.getLsbD_setWidth, decide_eq_true hb, Bool.true_and]

/-- Above it a 32-bit CSR gives copies of its bit 31 under LA64, and 0 under LA32. -/
theorem getLsbD_csrForGr_high (s : State) {r : Csr} (hr : r.wide = false) {b : Nat} (hlo : 32 ≤ b) (hhi : b < 64) :
    (s.csrForGr r).getLsbD b = (decide (s.cfg.arch = .la64) && (s.csrValue r).getLsbD 31) := by
  rw [State.csrForGr, hr, if_neg (by decide), getLsbD_sext32 _ _ hhi, if_neg (by omega), BitVec.getLsbD_setWidth]
  rfl

/-- A GR-wide CSR gives all its bits. -/
theorem csrForGr_wide (s : State) {r : Csr} (hr : r.wide = true) : s.csrForGr r = s.csrValue r := by
  rw [State.csrForGr, hr, if_pos rfl]

/-- A general register gets every software-writable bit as it is stored. -/
theorem getLsbD_csrForGr_of_writable {s : State} {r : Csr} {b : Nat} (h : softwareWritable s.cfg r b = true) :
    (s.csrForGr r).getLsbD b = (s.csr.get r).getLsbD b := by
  rw [← getLsbD_csrValue_of_writable h]
  cases hr : r.wide with
  | true => rw [csrForGr_wide s hr]
  | false =>
    have hb : b < 32 := by simpa [hr] using softwareWritable_lt h
    exact getLsbD_csrForGr_low s r hb

/-- Reserved and hardwired bits are 0 in the general register, too: where bit 31 is copied it is itself reserved. -/
theorem getLsbD_csrForGr_of_readsZero {s : State} {r : Csr} {b : Nat} (h : readsZero s.cfg r b = true) :
    (s.csrForGr r).getLsbD b = false := by
  cases hr : r.wide with
  | true => rw [csrForGr_wide s hr, getLsbD_csrValue_of_readsZero h]
  | false =>
    by_cases hlow : b < 32
    · rw [getLsbD_csrForGr_low s r hlow, getLsbD_csrValue_of_readsZero h]
    by_cases hhigh : b < 64
    · have h31 : readsZero s.cfg r 31 = true := by
        cases r with
        | crmd | prmd | ecfg | estat | tlbrprmd | merrctl => simp [readsZero]
        | _ => cases hr <;> cases h
      rw [getLsbD_csrForGr_high s hr (by omega) hhigh, getLsbD_csrValue_of_readsZero h31, Bool.and_false]
    · exact BitVec.getLsbD_of_ge _ b (Nat.not_lt.mp hhigh)

end Sys2Proof.Proofs
end

section
/-! SUPPORT. CSRRD, CSRWR and CSRXCHG (`40_csr_access.md`): what each completes with, what it is refused for, and the
laws of R128. -/

namespace Sys2Proof.Proofs

open Sys2Proof.Machine Sys2Proof.Laws

/-! ### The end of a CSR access: x[rd] written, the pc advanced -/

/-- The state after the last two effects of a CSR access. -/
def finish (s : State) (rd : Reg) (v : Word) : State := { s.setX rd v with pc := s.pc + 4 }

section finish
variable (s : State) (rd : Reg) (v : Word)

@[simp] theorem finish_cfg : (finish s rd v).cfg = s.cfg := setX_cfg s rd v
@[simp] theorem finish_csr : (finish s rd v).csr = s.csr := setX_csr s rd v
@[simp] theorem finish_llbit : (finish s rd v).llbit = s.llbit := setX_llbit s rd v
@[simp] theorem finish_draws : (finish s rd v).draws = s.draws := setX_draws s rd v
@[simp] theorem finish_mem : (finish s rd v).mem = s.mem := setX_mem s rd v

theorem finish_x (i : Reg) :
    (finish s rd v).x i = if i = 0 then 0 else if i = rd then narrow s.cfg v else s.x i :=
  x_setX s rd i v

theorem finish_x_rd : (finish s rd v).x rd = if rd = 0 then 0 else narrow s.cfg v := by
  rw [finish_x, if_pos (rfl : rd = rd)]

/-- A value of GRLEN bits is held as it is. -/
theorem finish_x_rd_of_narrow {v : Word} (h : narrow s.cfg v = v) :
    (finish s rd v).x rd = if rd = 0 then 0 else v := by
  rw [finish_x_rd, h]

theorem finish_keeps : Keeps s (finish s rd v) [rd] [] where
  gpr i hi := by
    have hne : i ≠ rd := by simpa using hi
    rw [finish_x, if_neg hne]
    split
    · next h0 => rw [h0]; rfl
    · rfl
  csr r _ := by rw [finish_csr]
  lines := setX_lines s rd v
  oracle := setX_oracle s rd v
  cfg := finish_cfg s rd v
  memory a := by rw [finish_mem]

/-- Below the top of the address space the access ends. -/
theorem advance_setX (h : s.pc.toNat + 4 < 2 ^ s.cfg.grlen) : advance (s.setX rd v) = .next (finish s rd v) := by
  rw [advance_below (by simpa using h), setX_pc]
  rfl

/-- Past the top it is refused (`10_state.md` R12, U11). -/
theorem advance_setX_refused (h : 2 ^ s.cfg.grlen ≤ s.pc.toNat + 4) :
    advance (s.setX rd v) = .refused .pcPastTop := by
  rw [advance, setX_pc, setX_cfg, if_neg (Nat.not_lt.mpr h)]

end finish

theorem advance_setX_next {s t : State} {rd : Reg} {v : Word} (h : advance (s.setX rd v) = .next t) :
    t = finish s rd v ∧ s.pc.toNat + 4 < 2 ^ s.cfg.grlen := by
  obtain ⟨rfl, hpc⟩ := advance_next h
  rw [setX_pc, setX_cfg] at hpc
  refine ⟨?_, hpc⟩
  rw [setX_pc]
  rfl

/-! ### Reading and writing, by what the number addresses -/

section access
variable {s : State} {n : CsrNum} {r : Csr}

theorem csrRead_some (hn : csrOfNum s.cfg n = some r) (ha : accessible s.cfg r) :
    csrRead n s = .ok (s.csrForGr r, s) := by
  simp [csrRead, hn, accessRefused_eq_false ha]

/-- The state after a free value is drawn (R63). -/
def drawn (s : State) : State := { s with draws := s.draws + 1 }

theorem csrRead_none (hn : csrOfNum s.cfg n = none) :
    csrRead n s = .ok (narrow s.cfg (Config.undefinedCsr s.draws), drawn s) := by
  simp only [csrRead, hn]
  rfl

theorem csrWrite_some (hn : csrOfNum s.cfg n = some r) (ha : accessible s.cfg r) (v m : Word) :
    csrWrite n v m s = csrStore r (written s r v m) s := by
  simp only [csrWrite, hn, accessRefused_eq_false ha]
  rfl

theorem csrWrite_none (hn : csrOfNum s.cfg n = none) (v m : Word) : csrWrite n v m s = .ok s := by
  simp only [csrWrite, hn]

theorem csrWrite_drawn (hn : csrOfNum s.cfg n = none) (v m : Word) : csrWrite n v m (drawn s) = .ok (drawn s) := by
  have hdrawn : csrOfNum (drawn s).cfg n = none := hn
  exact csrWrite_none hdrawn v m

/-- Under CSR_OPAQUE_POLICY = refuse a register with unknown fields cannot be read (R67). -/
theorem csrRead_refused (hn : csrOfNum s.cfg n = some r) (hf : r.fieldsUnknown = true)
    (hpol : s.cfg.opaquePolicy = .refuse) : csrRead n s = .error (.unknownFields r) := by
  have ha : accessRefused s.cfg r = true := by simp [accessRefused, hf, hpol]
  simp only [csrRead, hn, ha, if_true]

end access

/-- A register whose fields are known may be named under either policy. -/
theorem accessible_of_known {c : Config} {r : Csr} (h : r.fieldsUnknown = false) : accessible c r :=
  fun hf => absurd (h.symm.trans hf) (by decide)

theorem accessible_of_not_refused {c : Config} {r : Csr} (h : accessRefused c r = false) : accessible c r := by
  intro hf
  cases hp : c.opaquePolicy with
  | plainStorage => rfl
  | refuse => simp [accessRefused, hf, hp] at h

/-! ### The instructions at PLV0 -/

section plv0
variable {s : State} (hp : s.plv = 0)
include hp

theorem exec_csrrd (rd : Reg) (n : CsrNum) : exec (.csrrd rd n) s = csrToGr rd n s := if_pos hp

theorem exec_csrwr (rd : Reg) (n : CsrNum) :
    exec (.csrwr rd n) s = csrExchange rd n (s.x rd) (BitVec.allOnes 64) s := if_pos hp

end plv0

section bodies
variable {s s1 s2 : State} {rd : Reg} {n : CsrNum} {old v m : Word}

theorem csrToGr_of_read (hr : csrRead n s = .ok (old, s1)) : csrToGr rd n s = advance (s1.setX rd old) := by
  simp only [csrToGr, hr]

theorem csrExchange_of_write (hr : csrRead n s = .ok (old, s1)) (hw : csrWrite n v m s1 = .ok s2) :
    csrExchange rd n v m s = advance (s2.setX rd old) := by
  simp only [csrExchange, hr, hw]

theorem csrToGr_of_refused {e : Refusal} (hr : csrRead n s = .error e) : csrToGr rd n s = .refused e := by
  simp only [csrToGr, hr]

theorem csrExchange_of_refused_read {e : Refusal} (hr : csrRead n s = .error e) :
    csrExchange rd n v m s = .refused e := by
  simp only [csrExchange, hr]

theorem csrExchange_of_refused_write {e : Refusal} (hr : csrRead n s = .ok (old, s1))
    (hw : csrWrite n v m s1 = .error e) : csrExchange rd n v m s = .refused e := by
  simp only [csrExchange, hr, hw]

end bodies

/-- What a CSRRD of a register that completes has done. -/
theorem csrToGr_some_next {s t : State} {rd : Reg} {n : CsrNum} {r : Csr} (hn : csrOfNum s.cfg n = some r)
    (h : csrToGr rd n s = .next t) : t = finish s rd (s.csrForGr r) := by
  obtain ⟨v, s1, hread, hadv⟩ := csrToGr_next h
  rcases csrRead_ok hread with ⟨hnone, -⟩ | ⟨r', hr', -, rfl, rfl⟩
  · cases hn.symm.trans hnone
  · cases hn.symm.trans hr'
    exact (advance_setX_next hadv).1

/-- What a CSRWR or a CSRXCHG of a register that completes has done. -/
theorem csrExchange_some_next {s t : State} {rd : Reg} {n : CsrNum} {r : Csr} {v m : Word}
    (hn : csrOfNum s.cfg n = some r) (h : csrExchange rd n v m s = .next t) :
    t = exchanged s rd r v m ∧ csrStore r (written s r v m) s = .ok { s with csr := s.csr.put r (written s r v m) } ∧
      s.pc.toNat + 4 < 2 ^ s.cfg.grlen := by
  obtain ⟨old, s1, s2, hread, hwrite, hadv⟩ := csrExchange_next h
  rcases csrRead_ok hread with ⟨hnone, -⟩ | ⟨r', hr', ha, rfl, rfl⟩
  · cases hn.symm.trans hnone
  cases hn.symm.trans hr'
  rw [csrWrite_some hn (accessible_of_not_refused ha)] at hwrite
  obtain ⟨rfl, -, -⟩ := csrStore_ok hwrite
  obtain ⟨ht, hpc⟩ := advance_setX_next hadv
  exact ⟨ht, hwrite, hpc⟩

/-- What a CSRWR or a CSRXCHG of an undefined CSR that completes has done. -/
theorem csrExchange_none_next {s t : State} {rd : Reg} {n : CsrNum} {v m : Word} (hn : csrOfNum s.cfg n = none)
    (h : csrExchange rd n v m s = .next t) :
    t = finish (drawn s) rd (narrow s.cfg (Config.undefinedCsr s.draws)) ∧ s.pc.toNat + 4 < 2 ^ s.cfg.grlen := by
  have heq : csrExchange rd n v m s = _ := csrExchange_of_write (csrRead_none hn) (csrWrite_drawn hn v m)
  rw [heq] at h
  exact advance_setX_next h

/-! ### Masks of all ones and of all zeros -/

theorem mergeMasked_allOnes (old v : Word) : mergeMasked old v (BitVec.allOnes 64) = v := by
  apply BitVec.eq_of_getLsbD_eq
  intro b hb
  rw [getLsbD_mergeMasked, BitVec.getLsbD_allOnes, decide_eq_true hb, if_pos rfl]

theorem written_zeroMask (s : State) (r : Csr) (v : Word) : written s r v 0 = s.csr.get r := by
  apply BitVec.eq_of_getLsbD_eq
  intro b hb
  simp [getLsbD_written]

/-- A full write gives every software-writable bit. -/
theorem getLsbD_written_allOnes (s : State) (r : Csr) (v : Word) (b : Nat) :
    (written s r v (BitVec.allOnes 64)).getLsbD b =
      if softwareWritable s.cfg r b then v.getLsbD b else (s.csr.get r).getLsbD b := by
  rw [getLsbD_written]
  cases hw : softwareWritable s.cfg r b with
  | false => rfl
  | true =>
    have hb : b < 64 := BitVec.lt_of_getLsbD ((getLsbD_writeMask s.cfg r b).trans hw)
    rw [BitVec.getLsbD_allOnes, decide_eq_true hb, Bool.true_and]

/-! ### After an exchange -/

section exchanged
variable (s : State) (rd : Reg) (r : Csr) (v m : Word)

theorem exchanged_x_rd : (exchanged s rd r v m).x rd = if rd = 0 then 0 else s.csrForGr r :=
  finish_x_rd_of_narrow { s with csr := s.csr.put r (written s r v m) } rd (narrow_csrForGr s r)

theorem exchanged_keeps : Keeps s (exchanged s rd r v m) [rd] [r] := by
  have hput : Keeps s { s with csr := s.csr.put r (written s r v m) } [rd] [r] :=
    { gpr := fun _ _ => rfl
      csr := fun r' hr' => csrs_get_put_ne s.csr _ (by simpa using hr')
      lines := rfl
      oracle := rfl
      cfg := rfl
      memory := fun _ => rfl }
  exact keeps_trans hput (finish_keeps _ rd _) (List.Subset.refl _) (List.nil_subset _)

theorem exchanged_llbit : (exchanged s rd r v m).llbit = s.llbit := finish_llbit ..
theorem exchanged_draws : (exchanged s rd r v m).draws = s.draws := finish_draws ..
theorem exchanged_cfg : (exchanged s rd r v m).cfg = s.cfg := finish_cfg ..

end exchanged

/-! ### What the instructions complete with -/

theorem csrToGr_eq {s : State} {n : CsrNum} {r : Csr} (rd : Reg) (hn : csrOfNum s.cfg n = some r)
    (ha : accessible s.cfg r) (hpc : s.pc.toNat + 4 < 2 ^ s.cfg.grlen) :
    csrToGr rd n s = .next (finish s rd (s.csrForGr r)) := by
  rw [csrToGr_of_read (csrRead_some hn ha), advance_setX s rd _ hpc]

/-- After a CSRRD x[rd] holds the value of the CSR. -/
theorem finish_csrForGr_x (s : State) (rd : Reg) (r : Csr) :
    (finish s rd (s.csrForGr r)).x rd = if rd = 0 then 0 else s.csrForGr r :=
  finish_x_rd_of_narrow s rd (narrow_csrForGr s r)

/-- Settles O16. -/
theorem csrrdReadsCsr : Obligations.CsrrdReadsCsr := by
  unfold Obligations.CsrrdReadsCsr
  intro s rd n r hp hn ha hpc
  exact ⟨_, (exec_csrrd hp rd n).trans (csrToGr_eq rd hn ha hpc), rfl, finish_csrForGr_x s rd r, finish_llbit ..,
    finish_draws .., finish_keeps s rd _⟩

/-- Settles O17. -/
theorem csrwrWritesWritableBits : Obligations.CsrwrWritesWritableBits := by
  unfold Obligations.CsrwrWritesWritableBits
  intro s rd n r hp hn ha hst hpc
  rw [← mergeMasked_allOnes (s.csr.get r) (s.x rd)] at hst
  refine ⟨_, (exec_csrwr hp rd n).trans (csrExchange_eq hn ha hst hpc), rfl, exchanged_x_rd s rd r _ _, fun b => ?_,
    exchanged_llbit .., exchanged_draws .., exchanged_keeps s rd r _ _⟩
  rw [exchanged_get, getLsbD_written_allOnes]

/-- Settles O18. -/
theorem csrxchgWritesMaskedBits : Obligations.CsrxchgWritesMaskedBits := by
  unfold Obligations.CsrxchgWritesMaskedBits
  intro s rd rj n r hp hn ha hst hpc
  refine ⟨_, (exec_csrxchg rd rj n hp).trans (csrExchange_eq hn ha hst hpc), rfl, exchanged_x_rd s rd r _ _,
    fun b => ?_, exchanged_llbit .., exchanged_draws .., exchanged_keeps s rd r _ _⟩
  rw [exchanged_get, getLsbD_written]

/-- The three instructions on an undefined CSR draw a free value and put it into x[rd]. -/
theorem exec_undefined {s : State} {n : CsrNum} {i : Instr} {rd rj : Reg} (hp : s.plv = 0)
    (hn : csrOfNum s.cfg n = none) (hpc : s.pc.toNat + 4 < 2 ^ s.cfg.grlen)
    (hi : i = .csrrd rd n ∨ i = .csrwr rd n ∨ i = .csrxchg rd rj n) :
    exec i s = .next (finish (drawn s) rd (narrow s.cfg (Config.undefinedCsr s.draws))) := by
  have hread := csrRead_none hn
  have hwrite := csrWrite_drawn hn
  have hadv := advance_setX (drawn s) rd (narrow s.cfg (Config.undefinedCsr s.draws)) hpc
  rcases hi with rfl | rfl | rfl
  · rw [exec_csrrd hp, csrToGr_of_read hread, hadv]
  · rw [exec_csrwr hp, csrExchange_of_write hread (hwrite _ _), hadv]
  · rw [exec_csrxchg rd rj n hp, csrExchange_of_write hread (hwrite _ _), hadv]

/-- Settles O19. -/
theorem undefinedCsrReadsFreeValue : Obligations.UndefinedCsrReadsFreeValue := by
  unfold Obligations.UndefinedCsrReadsFreeValue
  intro s rd rj n i hp hnone hpc hi
  have hdrawn : Keeps s (drawn s) [rd] [] := ⟨fun _ _ => rfl, fun _ _ => rfl, rfl, rfl, rfl, fun _ => rfl⟩
  exact ⟨_, exec_undefined hp (csrOfNum_none.mpr hnone) hpc hi, rfl,
    finish_x_rd_of_narrow (drawn s) rd (narrow_narrow s.cfg _), finish_draws .., finish_llbit ..,
    keeps_trans hdrawn (finish_keeps (drawn s) rd _) (List.Subset.refl _) (List.nil_subset _)⟩

/-! ### What CSRRD shows -/

/-- Settles O20. -/
theorem csrrdSignExtends : Obligations.CsrrdSignExtends := by
  unfold Obligations.CsrrdSignExtends
  intro s t rd n r b hp hrd hn hwide h
  rw [exec_csrrd hp] at h
  rw [csrToGr_some_next hn h, finish_csrForGr_x, if_neg hrd]
  refine ⟨getLsbD_csrForGr_low s r, fun hlo hhi => ?_⟩
  rw [getLsbD_csrForGr_high s hwide hlo hhi]
  cases s.cfg.arch with
  | la32 => rfl
  | la64 => rfl

/-- Settles O21. -/
theorem csrrdReservedBitsReadZero : Obligations.CsrrdReservedBitsReadZero := by
  unfold Obligations.CsrrdReservedBitsReadZero
  intro s t rd n r b hp hn h hzero
  rw [exec_csrrd hp] at h
  rw [csrToGr_some_next hn h, finish_csrForGr_x]
  split
  · exact BitVec.getLsbD_zero
  · exact getLsbD_csrForGr_of_readsZero hzero

/-- ESTAT has its number in every core. -/
theorem csrOfNum_estat (c : Config) : csrOfNum c 0x5 = some .estat := csrOfNum_num rfl rfl

/-- A field of ESTAT in the general register: the lines in bits 12:2, the stored fields in the rest of the mask. -/
theorem getLsbD_csrForGr_estat (s : State) {b : Nat} (hb : b < 32) :
    (s.csrForGr .estat).getLsbD b =
      ((s.csr.estat.getLsbD b && (0x7FFF0003 : Word).getLsbD b) || (decide (2 ≤ b) && s.lines.getLsbD (b - 2))) := by
  rw [getLsbD_csrForGr_low s .estat hb, getLsbD_csrValue_estat s (by omega)]

/-- A field of ESTAT's mask that lies apart from the lines is shown as it is stored. -/
theorem getField_csrForGr_estat (s : State) {lo n : Nat} (hbit : lo + n ≤ 32) (hlines : lo + n ≤ 2 ∨ 13 ≤ lo)
    (hmask : getField (0x7FFF0003 : Word) lo n = BitVec.allOnes n) :
    getField (s.csrForGr .estat) lo n = getField s.csr.estat lo n := by
  apply BitVec.eq_of_getLsbD_eq
  intro b hb
  have hstored : (0x7FFF0003 : Word).getLsbD (lo + b) = true := by
    have h : (getField (0x7FFF0003 : Word) lo n).getLsbD b = (BitVec.allOnes n).getLsbD b := by rw [hmask]
    rwa [getLsbD_getField, BitVec.getLsbD_allOnes, decide_eq_true hb, Bool.true_and] at h
  have hnoLine : (decide (2 ≤ lo + b) && s.lines.getLsbD (lo + b - 2)) = false := by
    rcases hlines with h | h
    · simp [show ¬ 2 ≤ lo + b by omega]
    · rw [BitVec.getLsbD_of_ge s.lines _ (by omega), Bool.and_false]
  rw [getLsbD_getField, getLsbD_getField, getLsbD_csrForGr_estat s (by omega), hstored, hnoLine, Bool.and_true,
    Bool.or_false]

/-- Bits 12:2 of ESTAT are the lines. -/
theorem getField_csrForGr_lines (s : State) : getField (s.csrForGr .estat) 2 11 = s.lines := by
  apply BitVec.eq_of_getLsbD_eq
  intro b hb
  have hmask : (0x7FFF0003 : Word).getLsbD (2 + b) = false := by revert b; decide
  rw [getLsbD_getField, getLsbD_csrForGr_estat s (by omega), hmask]
  simp [hb]

/-- Settles O22. -/
theorem csrrdOfEstatShowsLines : Obligations.CsrrdOfEstatShowsLines := by
  unfold Obligations.CsrrdOfEstatShowsLines
  intro s rd hp hrd hpc
  refine ⟨_, (exec_csrrd hp rd 0x5).trans (csrToGr_eq rd (csrOfNum_estat s.cfg) (accessible_of_known rfl) hpc), ?_⟩
  rw [finish_csrForGr_x, if_neg hrd]
  exact ⟨getField_csrForGr_lines s, getField_csrForGr_estat s (by decide) (by decide) (by decide),
    getField_csrForGr_estat s (by decide) (by decide) (by decide),
    getField_csrForGr_estat s (by decide) (by decide) (by decide)⟩

/-! ### The laws of R128 -/

/-- Settles O23: what a full write leaves in the register, read through its fields. -/
theorem csrwrThenCsrrdReadsBack : Obligations.CsrwrThenCsrrdReadsBack := by
  unfold Obligations.CsrwrThenCsrrdReadsBack
  intro s t u rd rd' n r hn hne hp hpt hrd' hwr hrd b hb
  rw [exec_csrwr hp] at hwr
  rw [exec_csrrd hpt] at hrd
  obtain ⟨rfl, -, -⟩ := csrExchange_some_next hn hwr
  have hn' : csrOfNum (exchanged s rd r (s.x rd) (BitVec.allOnes 64)).cfg n = some r := by rwa [exchanged_cfg]
  have hlow : ((exchanged s rd r (s.x rd) (BitVec.allOnes 64)).csrForGr r).getLsbD b =
      ((exchanged s rd r (s.x rd) (BitVec.allOnes 64)).csrValue r).getLsbD b := by
    rcases hb with hb | ⟨hwide, -⟩
    · exact getLsbD_csrForGr_low _ r hb
    · rw [csrForGr_wide _ hwide]
  rw [csrToGr_some_next hn' hrd, finish_csrForGr_x, if_neg hrd', hlow, csrValue_eq _ hne, BitVec.getLsbD_and,
    exchanged_get, exchanged_cfg, getLsbD_written_allOnes]
  cases hw : softwareWritable s.cfg r b with
  | true => rw [getLsbD_fieldMask_of_writable hw, Bool.and_true]; rfl
  | false => rw [csrValue_eq _ hne, BitVec.getLsbD_and]; rfl

/-- Settles O24: the old value carries every software-writable bit, and only those are written. -/
theorem csrxchgTwiceRestores : Obligations.CsrxchgTwiceRestores := by
  unfold Obligations.CsrxchgTwiceRestores
  intro s t u rd rj n r hn hp hpt hrd hne h1 h2
  rw [exec_csrxchg rd rj n hp] at h1
  rw [exec_csrxchg rd rj n hpt] at h2
  obtain ⟨ht, -, -⟩ := csrExchange_some_next hn h1
  have hcfg : t.cfg = s.cfg := by rw [ht, exchanged_cfg]
  have hold : t.x rd = s.csrForGr r := by rw [ht, exchanged_x s r _ _ hrd]
  have hmask : t.x rj = s.x rj := by
    rw [ht]
    exact (exchanged_keeps s rd r _ _).gpr rj (by simpa using Ne.symm hne)
  obtain ⟨rfl, -, -⟩ := csrExchange_some_next (by rwa [hcfg]) h2
  rw [exchanged_get]
  apply BitVec.eq_of_getLsbD_eq
  intro b hb
  rw [getLsbD_written, hcfg, hold, hmask]
  cases hw : softwareWritable s.cfg r b && (s.x rj).getLsbD b with
  | true =>
    have hsw : softwareWritable s.cfg r b = true := (Bool.and_eq_true_iff.mp hw).1
    rw [if_pos rfl, getLsbD_csrForGr_of_writable hsw]
  | false =>
    rw [if_neg (by decide), ht, exchanged_get, getLsbD_written, hw, if_neg (by decide)]

/-- PLV in the contents of CRMD. -/
theorem plv_eq_getField_get (s : State) : s.plv = getField (s.csr.get .crmd) 0 2 :=
  (BitVec.extractLsb'_setWidth_of_le (by decide)).symm

/-- What a register holds is storable where the invariant holds. -/
theorem csrStore_get {s : State} (h : Inv s) (r : Csr) : csrStore r (s.csr.get r) s = .ok s := by
  have hplv : r = .crmd → plvLegal s.cfg (getField (s.csr.get r) 0 2) = true := by
    rintro rfl
    rw [← plv_eq_getField_get, h.legalPlv]
  have hmisc : r = .misc → s.csr.get r = 0 := by
    rintro rfl
    simp [Csrs.get, h.miscZero]
  rw [csrStore_legal s hplv hmisc, csrs_put_get]

/-- Settles O26. -/
theorem csrWriteUnderZeroMaskIsIdentity : Obligations.CsrWriteUnderZeroMaskIsIdentity := by
  unfold Obligations.CsrWriteUnderZeroMaskIsIdentity
  intro s n v hinv ha
  cases hn : csrOfNum s.cfg n with
  | none => exact csrWrite_none hn v 0
  | some r => rw [csrWrite_some hn (ha r hn), written_zeroMask, csrStore_get hinv]

/-! ### The next boundary -/

/-- A CSRWR or a CSRXCHG that completes leaves the pc at the next word. -/
theorem csrExchange_pc {s t : State} {rd : Reg} {n : CsrNum} {v m : Word} (h : csrExchange rd n v m s = .next t) :
    t.pc = s.pc + 4 := by
  cases hn : csrOfNum s.cfg n with
  | none => rw [(csrExchange_none_next hn h).1]; rfl
  | some r =>
    obtain ⟨rfl, -, -⟩ := csrExchange_some_next hn h
    rfl

/-- Settles O27: the next boundary reads what the write left. -/
theorem csrWriteGovernsNextBoundary : Obligations.CsrWriteGovernsNextBoundary := by
  unfold Obligations.CsrWriteGovernsNextBoundary
  intro s t i rd rj n hp hi hexec
  have hpc : t.pc = s.pc + 4 := by
    rcases hi with rfl | rfl
    · rw [exec_csrwr hp] at hexec
      exact csrExchange_pc hexec
    · rw [exec_csrxchg rd rj n hp] at hexec
      exact csrExchange_pc hexec
  refine ⟨fun hie hpend => ?interrupt, stepRefusesOutsideDirectMode t, fun w k rd' rj' n' hplv hf hd hk => ?privilege⟩
  case interrupt =>
    have htakes : t.sample.takesInterrupt = true := takesInterrupt_iff.mpr ⟨by rwa [sample_ie], hpend⟩
    have hentry : OrdinaryEntry t.sample (raise .int ⟨none, 0⟩ t.sample) 0 0 := ordinaryEntry_raise rfl _ _
    exact ⟨_, step_of_interrupt htakes, by rw [hentry.era, sample_pc, hpc], hentry.ecode,
      by rw [hentry.pie, sample_ie, hie], hentry.ie⟩
  case privilege =>
    have hentry : OrdinaryEntry t.sample (raise .ipe ⟨some (encode k), 0⟩ t.sample) 0xE 0 := ordinaryEntry_raise rfl _ _
    have hstep : step t = .next (raise .ipe ⟨some (encode k), 0⟩ t.sample) := by
      rw [step_of_instr hf hd, exec_of_isPrivileged (isPrivileged_of_eq hk) (by rwa [sample_plv])]
    exact ⟨_, hstep, by rw [hentry.era, sample_pc, hpc], hentry.ecode, by rw [hentry.pplv, sample_plv], hentry.plv⟩

/-! ### Refusals -/

/-- Settles O28. -/
theorem unknownFieldsRefusedByPolicy : Obligations.UnknownFieldsRefusedByPolicy := by
  unfold Obligations.UnknownFieldsRefusedByPolicy
  intro s rd rj n r i hp hn hf hpol hi
  have hread := csrRead_refused hn hf hpol
  rcases hi with rfl | rfl | rfl
  · rw [exec_csrrd hp, csrToGr_of_refused hread]
  · rw [exec_csrwr hp, csrExchange_of_refused_read hread]
  · rw [exec_csrxchg rd rj n hp, csrExchange_of_refused_read hread]

/-- A register that may be named refuses the values that its store refuses. -/
theorem csrExchange_of_refused_store {s : State} {n : CsrNum} {r : Csr} {v m : Word} {e : Refusal} (rd : Reg)
    (hn : csrOfNum s.cfg n = some r) (ha : accessible s.cfg r) (hst : csrStore r (written s r v m) s = .error e) :
    csrExchange rd n v m s = .refused e :=
  csrExchange_of_refused_write (csrRead_some hn ha) ((csrWrite_some hn ha v m).trans hst)

/-- CRMD.PLV is writable in full, so it gets the masked value. -/
theorem getField_written_plv (s : State) (v m : Word) :
    getField (written s .crmd v m) 0 2 = getField (mergeMasked (s.csr.get .crmd) v m) 0 2 := by
  apply BitVec.eq_of_getLsbD_eq
  intro b hb
  have hw : softwareWritable s.cfg .crmd (0 + b) = true := by simp [softwareWritable]; omega
  rw [getLsbD_getField, getLsbD_getField, getLsbD_written_of_writable v m hw]

/-- A core with PLV0 and PLV3 only lacks the two levels between (D32). -/
theorem plvLegal_eq_false {c : Config} (hc : c.plvSet = .zeroAndThree) {plv : BitVec 2} (h : plv = 1 ∨ plv = 2) :
    plvLegal c plv = false := by
  rw [plvLegal, hc]
  rcases h with rfl | rfl <;> decide

theorem csrExchange_plvNotImplemented {s : State} {v m : Word} (rd : Reg) (hc : s.cfg.plvSet = .zeroAndThree)
    (h : getField (mergeMasked (s.csr.get .crmd) v m) 0 2 = 1 ∨ getField (mergeMasked (s.csr.get .crmd) v m) 0 2 = 2) :
    csrExchange rd 0x0 v m s = .refused .plvNotImplemented := by
  refine csrExchange_of_refused_store rd (csrOfNum_num rfl rfl : csrOfNum s.cfg 0x0 = some .crmd)
    (accessible_of_known rfl) ?_
  rw [← getField_written_plv] at h
  rw [csrStore, plvLegal_eq_false hc h, if_neg (by decide)]

/-- Settles O29. -/
theorem plvNotImplementedRefused : Obligations.PlvNotImplementedRefused := by
  unfold Obligations.PlvNotImplementedRefused
  intro s hp hc
  refine ⟨fun rd h => ?csrwr, fun rd rj v hv h => ?csrxchg, fun h => ?ertn⟩
  case csrwr =>
    rw [exec_csrwr hp]
    exact csrExchange_plvNotImplemented rd hc (by rwa [mergeMasked_allOnes])
  case csrxchg =>
    rw [exec_csrxchg rd rj 0x0 hp]
    subst hv
    exact csrExchange_plvNotImplemented rd hc h
  case ertn =>
    have hl : ¬ plvLegal s.cfg s.savedPlv = true := by rw [plvLegal_eq_false hc h]; decide
    exact (if_pos hp).trans (if_neg hl)

/-- MISC is writable in full, so it gets the masked value. -/
theorem written_misc_ne_zero {s : State} {v m : Word}
    (h : (mergeMasked (s.csr.get .misc) v m).setWidth 32 ≠ 0#32) : written s .misc v m ≠ 0 := by
  intro hzero
  apply h
  apply BitVec.eq_of_getLsbD_eq
  intro b hb
  have hw : softwareWritable s.cfg .misc b = true := decide_eq_true hb
  rw [BitVec.getLsbD_setWidth, ← getLsbD_written_of_writable v m hw, hzero]
  simp

theorem csrExchange_miscRelaxation {s : State} {v m : Word} (rd : Reg) (hpol : s.cfg.opaquePolicy = .plainStorage)
    (h : (mergeMasked (s.csr.get .misc) v m).setWidth 32 ≠ 0#32) :
    csrExchange rd 0x3 v m s = .refused .miscRelaxation := by
  refine csrExchange_of_refused_store rd (csrOfNum_num rfl rfl : csrOfNum s.cfg 0x3 = some .misc)
    (fun _ => hpol) ?_
  rw [csrStore, if_neg (written_misc_ne_zero h)]

/-- Settles O30. -/
theorem miscRelaxationRefused : Obligations.MiscRelaxationRefused := by
  unfold Obligations.MiscRelaxationRefused
  intro s rd rj hp hpol
  refine ⟨fun h => ?csrwr, fun h => ?csrxchg⟩
  case csrwr =>
    rw [exec_csrwr hp]
    exact csrExchange_miscRelaxation rd hpol (by rwa [mergeMasked_allOnes])
  case csrxchg =>
    rw [exec_csrxchg rd rj 0x3 hp]
    exact csrExchange_miscRelaxation rd hpol h

section pcPastTop
variable {s : State} {n : CsrNum} (ha : ∀ r, csrOfNum s.cfg n = some r → accessible s.cfg r)
  (hpc : 2 ^ s.cfg.grlen ≤ s.pc.toNat + 4)
include ha hpc

theorem csrToGr_pcPastTop (rd : Reg) : csrToGr rd n s = .refused .pcPastTop := by
  cases hn : csrOfNum s.cfg n with
  | none => rw [csrToGr_of_read (csrRead_none hn), advance_setX_refused (drawn s) rd _ hpc]
  | some r => rw [csrToGr_of_read (csrRead_some hn (ha r hn)), advance_setX_refused s rd _ hpc]

theorem csrExchange_pcPastTop (rd : Reg) {v m : Word}
    (hst : ∀ r, csrOfNum s.cfg n = some r → storable s.cfg r (mergeMasked (s.csr.get r) v m)) :
    csrExchange rd n v m s = .refused .pcPastTop := by
  cases hn : csrOfNum s.cfg n with
  | none =>
    rw [csrExchange_of_write (csrRead_none hn) (csrWrite_drawn hn v m), advance_setX_refused (drawn s) rd _ hpc]
  | some r =>
    have hwrite := (csrWrite_some hn (ha r hn) v m).trans (csrStore_written (hst r hn))
    rw [csrExchange_of_write (csrRead_some hn (ha r hn)) hwrite]
    exact advance_setX_refused _ rd _ hpc

end pcPastTop

/-- Settles O31. -/
theorem pcPastTopRefused : Obligations.PcPastTopRefused := by
  unfold Obligations.PcPastTopRefused
  intro s rd rj n hp ha hpc
  refine ⟨?csrrd, fun hst => ?csrwr, fun hst => ?csrxchg⟩
  case csrrd => rw [exec_csrrd hp, csrToGr_pcPastTop ha hpc]
  case csrwr =>
    rw [exec_csrwr hp]
    exact csrExchange_pcPastTop ha hpc rd fun r hr => by rw [mergeMasked_allOnes]; exact hst r hr
  case csrxchg =>
    rw [exec_csrxchg rd rj n hp]
    exact csrExchange_pcPastTop ha hpc rd hst

end Sys2Proof.Proofs
end

section
/-! SUPPORT. The rules of the whole machine: what a step that completes has done, said once
(`70_reset_and_hazards.md` R233), and what follows for memory, the privilege level and the CSRs. -/

namespace Sys2Proof.Proofs

open Sys2Proof.Machine Sys2Proof.Laws

/-! ### What a completed step has done -/

/-- The five exceptions that the machine raises. -/
def raisedExceptions : List Exception := [.int, .adef, .sys, .brk, .ipe]

/-- CSRWR and CSRXCHG, the instructions that write the CSR `n`. -/
def WritesCsr (i : Instr) (n : CsrNum) : Prop := (∃ rd, i = .csrwr rd n) ∨ ∃ rd rj, i = .csrxchg rd rj n

/-- What an instruction at PLV0 that raises nothing has done. -/
def Completes (i : Instr) (s t : State) : Prop :=
  (∃ rd n, csrToGr rd n s = .next t) ∨
  (∃ rd n v m, WritesCsr i n ∧ csrExchange rd n v m s = .next t) ∨
  (i = .ertn ∧ t = returnFrom s ∧ plvLegal s.cfg s.savedPlv = true)

theorem exec_raises_or_completes {i : Instr} {s t : State} (h : exec i s = .next t) :
    (∃ e ∈ raisedExceptions, t = raise e ⟨some (encode i), 0⟩ s) ∨ (s.plv = 0 ∧ Completes i s t) := by
  rcases exec_next h with ⟨-, ht⟩ | ⟨rd, n, -, hp, hb⟩ | ⟨rd, n, hi, hp, hb⟩ | ⟨rd, rj, n, hi, hp, hb⟩ |
    ⟨hi, hp, ht, hl⟩ | ⟨k, -, ht⟩ | ⟨k, -, ht⟩
  · exact .inl ⟨.ipe, by decide, ht⟩
  · exact .inr ⟨hp, .inl ⟨rd, n, hb⟩⟩
  · exact .inr ⟨hp, .inr (.inl ⟨rd, n, _, _, .inl ⟨rd, hi⟩, hb⟩)⟩
  · exact .inr ⟨hp, .inr (.inl ⟨rd, n, _, _, .inr ⟨rd, rj, hi⟩, hb⟩)⟩
  · exact .inr ⟨hp, .inr (.inr ⟨hi, ht, hl⟩)⟩
  · exact .inl ⟨.sys, by decide, ht⟩
  · exact .inl ⟨.brk, by decide, ht⟩

/-- A step raises one of five exceptions, with the pc as the address where it records one, or it is at PLV0 and the
fetched instruction completes. -/
theorem step_raises_or_completes {s t : State} (h : step s = .next t) :
    (∃ e ∈ raisedExceptions, ∃ info : TrapInfo, (info.badva = 0 ∨ info.badva = s.pc) ∧ t = raise e info s.sample) ∨
    (s.plv = 0 ∧ ∃ w i, fetchWord s s.pc = some w ∧ decode w = .ok i ∧ Completes i s.sample t) := by
  rcases step_next h with ⟨-, ht⟩ | ⟨-, -, ht⟩ | ⟨w, i, -, hf, hd, hexec⟩
  · exact .inl ⟨.int, by decide, _, .inl rfl, ht⟩
  · exact .inl ⟨.adef, by decide, _, .inr (sample_pc s), ht⟩
  · rw [sample_fetchWord, sample_pc] at hf
    rcases exec_raises_or_completes hexec with ⟨e, he, ht⟩ | ⟨hp, hc⟩
    · exact .inl ⟨e, he, _, .inl rfl, ht⟩
    · exact .inr ⟨by rwa [sample_plv] at hp, w, i, hf, hd, hc⟩

/-- The entry of a raised exception: the ordinary one with one of five codes. -/
theorem ordinaryEntry_of_raised {e : Exception} (he : e ∈ raisedExceptions) (info : TrapInfo) (s : State) :
    ∃ ec ∈ ([0, 0x8, 0xB, 0xC, 0xE] : List (BitVec 6)), OrdinaryEntry s (raise e info s) ec 0 := by
  obtain ⟨ec, hmem, hc⟩ := codes_of_raised he
  exact ⟨ec, hmem, ordinaryEntry_raise hc info s⟩

/-! ### What a CSR access has done -/

/-- A CSRRD ends in the state it started in, up to the count of free values. -/
theorem csrToGr_finish {s t : State} {rd : Reg} {n : CsrNum} (h : csrToGr rd n s = .next t) :
    ∃ s1 v, t = finish s1 rd v ∧ (s1 = s ∨ s1 = drawn s) ∧ s.pc.toNat + 4 < 2 ^ s.cfg.grlen := by
  obtain ⟨v, s1, hread, hadv⟩ := csrToGr_next h
  obtain ⟨ht, hpc⟩ := advance_setX_next hadv
  rcases csrRead_ok hread with ⟨-, -, rfl⟩ | ⟨-, -, -, -, rfl⟩
  · exact ⟨_, v, ht, .inr rfl, hpc⟩
  · exact ⟨_, v, ht, .inl rfl, hpc⟩

/-- A CSRWR or a CSRXCHG has written at most the register its number addresses. -/
theorem csrExchange_finish {s t : State} {rd : Reg} {n : CsrNum} {v m : Word} (h : csrExchange rd n v m s = .next t) :
    ∃ s1 s2 old, t = finish s2 rd old ∧ (s1 = s ∨ s1 = drawn s) ∧ csrWrite n v m s1 = .ok s2 ∧
      s.pc.toNat + 4 < 2 ^ s.cfg.grlen ∧ s2.pc = s.pc ∧ s2.cfg = s.cfg ∧ s2.mem = s.mem := by
  obtain ⟨old, s1, s2, hread, hwrite, hadv⟩ := csrExchange_next h
  obtain ⟨ht, hpc⟩ := advance_setX_next hadv
  have hs1 : (s1 = s ∨ s1 = drawn s) := by
    rcases csrRead_ok hread with ⟨-, -, rfl⟩ | ⟨-, -, -, -, rfl⟩
    · exact .inr rfl
    · exact .inl rfl
  have hrest : s2.pc = s1.pc ∧ s2.cfg = s1.cfg ∧ s2.mem = s1.mem := by
    rcases csrWrite_ok hwrite with ⟨-, rfl⟩ | ⟨r, -, -, hstore⟩
    · exact ⟨rfl, rfl, rfl⟩
    · obtain ⟨rfl, -, -⟩ := csrStore_ok hstore
      exact ⟨rfl, rfl, rfl⟩
  obtain ⟨hpc2, hcfg, hmem⟩ := hrest
  rw [hpc2, hcfg] at hpc
  rcases hs1 with rfl | rfl
  · exact ⟨_, s2, old, ht, .inl rfl, hwrite, hpc, hpc2, hcfg, hmem⟩
  · exact ⟨_, s2, old, ht, .inr rfl, hwrite, hpc, hpc2, hcfg, hmem⟩

/-- A CSR that a CSRWR or a CSRXCHG has changed is the one its number addresses. -/
theorem csrExchange_changes {s t : State} {rd : Reg} {n : CsrNum} {v m : Word} (h : csrExchange rd n v m s = .next t)
    {r : Csr} (hr : t.csr.get r ≠ s.csr.get r) : csrOfNum s.cfg n = some r := by
  cases hn : csrOfNum s.cfg n with
  | none =>
    rw [(csrExchange_none_next hn h).1, finish_csr] at hr
    exact absurd rfl hr
  | some r' =>
    by_contra hne
    have hr' : r ≠ r' := fun e => hne (by rw [e])
    obtain ⟨rfl, -, -⟩ := csrExchange_some_next hn h
    exact hr ((exchanged_keeps s rd r' v m).csr r (by simpa using hr'))

theorem csrToGr_csr {s t : State} {rd : Reg} {n : CsrNum} (h : csrToGr rd n s = .next t) : t.csr = s.csr := by
  obtain ⟨s1, v, rfl, rfl | rfl, -⟩ := csrToGr_finish h
  · exact finish_csr ..
  · exact finish_csr ..

/-! ### Memory, configuration, privilege -/

theorem completes_keeps {i : Instr} {s t : State} (h : Completes i s t) : t.cfg = s.cfg ∧ t.mem = s.mem := by
  rcases h with ⟨rd, n, h⟩ | ⟨rd, n, v, m, -, h⟩ | ⟨-, rfl, -⟩
  · obtain ⟨s1, v, rfl, rfl | rfl, -⟩ := csrToGr_finish h
    · exact ⟨finish_cfg .., finish_mem ..⟩
    · exact ⟨finish_cfg .., finish_mem ..⟩
  · obtain ⟨s1, s2, old, rfl, -, -, -, -, hcfg, hmem⟩ := csrExchange_finish h
    exact ⟨(finish_cfg ..).trans hcfg, (finish_mem ..).trans hmem⟩
  · exact ⟨rfl, rfl⟩

/-- Settles O51. -/
theorem programAndConfigurationConstant : Obligations.ProgramAndConfigurationConstant := by
  unfold Obligations.ProgramAndConfigurationConstant
  intro s t h
  rcases step_raises_or_completes h with ⟨e, he, info, -, rfl⟩ | ⟨-, w, i, -, -, hc⟩
  · obtain ⟨ec, -, hentry⟩ := ordinaryEntry_of_raised he info s.sample
    exact ⟨hentry.keeps.cfg.trans (sample_cfg s), fun a => by rw [hentry.keeps.memory, sample_mem]⟩
  · obtain ⟨hcfg, hmem⟩ := completes_keeps hc
    exact ⟨hcfg.trans (sample_cfg s), fun a => by rw [hmem, sample_mem]⟩

/-- Settles O52: below PLV0 no instruction completes without raising an exception. -/
theorem userModeStepsOnlyTrap : Obligations.UserModeStepsOnlyTrap := by
  unfold Obligations.UserModeStepsOnlyTrap
  intro s t hp h
  rcases step_raises_or_completes h with ⟨e, he, info, -, rfl⟩ | ⟨hp0, -⟩
  · exact ordinaryEntry_of_raised he info s.sample
  · exact absurd hp0 hp

theorem get_crmd_ne_of_plv_ne {s t : State} (h : t.plv ≠ s.plv) : t.csr.get .crmd ≠ s.csr.get .crmd :=
  fun e => h (by rw [plv_eq_getField_get, plv_eq_getField_get, e])

/-- CRMD has the number 0 and no other. -/
theorem eq_zero_of_csrOfNum_crmd {c : Config} {n : CsrNum} (h : csrOfNum c n = some .crmd) : n = 0 :=
  BitVec.eq_of_toNat_eq (csrOfNum_some h).1.symm

/-- Settles O53. -/
theorem privilegeLevelChangesOnlyThreeWays : Obligations.PrivilegeLevelChangesOnlyThreeWays := by
  unfold Obligations.PrivilegeLevelChangesOnlyThreeWays
  intro s t h hne
  have hcrmd : t.csr.get .crmd ≠ s.sample.csr.get .crmd := by
    rw [sample_csr]
    exact get_crmd_ne_of_plv_ne hne
  rcases step_raises_or_completes h with ⟨e, he, info, -, rfl⟩ | ⟨hp, w, i, hf, hd, hc⟩
  · obtain ⟨ec, -, hentry⟩ := ordinaryEntry_of_raised he info s.sample
    exact .inl ⟨hentry.plv, hentry.pplv.trans (sample_plv s), hentry.era.trans (sample_pc s)⟩
  · refine .inr ⟨hp, w, hf, ?_⟩
    rcases hc with ⟨rd, n, hb⟩ | ⟨rd, n, v, m, hi, hb⟩ | ⟨rfl, -, -⟩
    · exact absurd (by rw [csrToGr_csr hb]) hcrmd
    · have hn : n = 0 := eq_zero_of_csrOfNum_crmd (csrExchange_changes hb hcrmd)
      rw [hn] at hi
      rcases hi with ⟨rd', rfl⟩ | ⟨rd', rj', rfl⟩
      · exact .inr (.inl ⟨rd', hd⟩)
      · exact .inr (.inr ⟨rd', rj', hd⟩)
    · exact .inl hd

/-- Settles O54: entry and return store into the eight registers only. -/
theorem csrsChangeOnlyByNamedWrite : Obligations.CsrsChangeOnlyByNamedWrite := by
  unfold Obligations.CsrsChangeOnlyByNamedWrite
  intro s t r h hr hne
  have hchanged : t.csr.get r ≠ s.sample.csr.get r := by rwa [sample_csr]
  rcases step_raises_or_completes h with ⟨e, he, info, -, rfl⟩ | ⟨hp, w, i, hf, hd, hc⟩
  · obtain ⟨ec, -, hentry⟩ := ordinaryEntry_of_raised he info s.sample
    have hsub : ordinaryEntryCsrs ⊆ [.prmd, .crmd, .estat, .era, .badv, .badi, .merrctl, .tlbrera] := by decide
    exact absurd (hentry.keeps.csr r (mt (@hsub r) hr)) hchanged
  · rcases hc with ⟨rd, n, hb⟩ | ⟨rd, n, v, m, hi, hb⟩ | ⟨-, rfl, -⟩
    · exact absurd (by rw [csrToGr_csr hb]) hchanged
    · have hn : csrOfNum s.cfg n = some r := by
        rw [← sample_cfg s]
        exact csrExchange_changes hb hchanged
      rcases hi with ⟨rd', rfl⟩ | ⟨rd', rj', rfl⟩
      · exact ⟨hp, w, rd', 0, n, hf, hn, .inl hd⟩
      · exact ⟨hp, w, rd', rj', n, hf, hn, .inr hd⟩
    · have hsub : ([.crmd, .merrctl, .tlbrera] : List Csr) ⊆
          [.prmd, .crmd, .estat, .era, .badv, .badi, .merrctl, .tlbrera] := by decide
      exact absurd (returnFrom_get s.sample r (mt (@hsub r) hr)) hchanged

end Sys2Proof.Proofs
end

section
/-! SUPPORT. The invariant `Inv`: every operation keeps it, so every step does, and reset has it. -/

namespace Sys2Proof.Proofs

open Sys2Proof.Machine Sys2Proof.Laws

/-! ### Bits outside a mask -/

/-- A value has no bit outside a mask exactly when each bit the mask lacks is 0. -/
theorem outside_eq_zero_iff {v m : Word} :
    v &&& ~~~m = 0 ↔ ∀ b, m.getLsbD b = false → v.getLsbD b = false := by
  constructor
  · intro h b hm
    by_cases hb : b < 64
    · have hbit : (v &&& ~~~m).getLsbD b = false := by
        rw [h]
        exact BitVec.getLsbD_zero
      rw [BitVec.getLsbD_and, BitVec.getLsbD_not, hm, decide_eq_true hb] at hbit
      simpa only [Bool.not_false, Bool.and_true] using hbit
    · exact BitVec.getLsbD_of_ge v b (Nat.not_lt.mp hb)
  · intro h
    apply BitVec.eq_of_getLsbD_eq
    intro b hb
    rw [BitVec.getLsbD_and, BitVec.getLsbD_not, decide_eq_true hb, Bool.true_and]
    refine Eq.trans ?_ BitVec.getLsbD_zero.symm
    cases hm : m.getLsbD b with
    | true => exact Bool.and_false _
    | false => rw [h b hm, Bool.false_and]

/-- GRLEN bits hold the numbers below 2^GRLEN. -/
theorem fits_iff {c : Config} {v : Word} : v &&& ~~~grMask c = 0 ↔ v.toNat < 2 ^ c.grlen := by
  rw [outside_eq_zero_iff]
  simp only [getLsbD_grMask, decide_eq_false_iff_not, Nat.not_lt]
  constructor
  · intro h
    exact Nat.lt_pow_two_of_testBit _ h
  · intro h b hb
    exact Nat.testBit_lt_two_pow (Nat.lt_of_lt_of_le h (Nat.pow_le_pow_right (by decide) hb))

theorem fits_or {c : Config} {v w : Word} (hv : v &&& ~~~grMask c = 0) (hw : w &&& ~~~grMask c = 0) :
    (v ||| w) &&& ~~~grMask c = 0 := by
  rw [BitVec.and_comm, BitVec.and_or_distrib_left, BitVec.and_comm _ v, BitVec.and_comm _ w, hv, hw]
  exact BitVec.or_zero

theorem fits_and {c : Config} {v : Word} (hv : v &&& ~~~grMask c = 0) (w : Word) : (v &&& w) &&& ~~~grMask c = 0 := by
  rw [BitVec.and_assoc, BitVec.and_comm w, ← BitVec.and_assoc, hv]
  exact BitVec.zero_and

theorem fits_zero (c : Config) : (0 : Word) &&& ~~~grMask c = 0 := BitVec.zero_and

/-- GRLEN is at least 32. -/
theorem grlen_ge (c : Config) : 32 ≤ c.grlen := by
  unfold Config.grlen; cases c.arch <;> decide

/-- pc + 4 has GRLEN bits where it does not pass the top. -/
theorem fits_pc_add {c : Config} {pc : Word} (h : pc.toNat + 4 < 2 ^ c.grlen) : (pc + 4) &&& ~~~grMask c = 0 := by
  have htop : 2 ^ c.grlen ≤ 2 ^ 64 := Nat.pow_le_pow_right (by decide) (grlen_le c)
  have hsum : (pc + 4).toNat = pc.toNat + 4 := by
    rw [BitVec.toNat_add]
    exact Nat.mod_eq_of_lt (Nat.lt_of_lt_of_le h htop)
  rw [fits_iff, hsum]
  exact h

/-! ### Reserved bits after the write of a field -/

/-- Writing a field of a 32-bit register keeps the bits outside a mask 0, if the field is 0 outside the mask. -/
theorem setField_outside {n : Nat} {v : Word32} {m : Word} {lo : Nat} {f : BitVec n}
    (hv : v.setWidth 64 &&& ~~~m = 0) (hf : ∀ i, i < n → m.getLsbD (lo + i) = false → f.getLsbD i = false) :
    (setField v lo f).setWidth 64 &&& ~~~m = 0 := by
  rw [outside_eq_zero_iff] at hv ⊢
  intro b hm
  have hold := hv b hm
  rw [BitVec.getLsbD_setWidth] at hold ⊢
  rw [getLsbD_setField]
  split
  · next h =>
    obtain ⟨hlo, hhi, -⟩ := h
    have hfb := hf (b - lo) (by omega) (by rwa [Nat.add_sub_cancel' hlo])
    rw [hfb, Bool.and_false]
  · exact hold

/-- Writing a field all of whose bits the mask has. -/
theorem setField_inside {n : Nat} {v : Word32} {m : Word} {lo : Nat} (f : BitVec n) (hv : v.setWidth 64 &&& ~~~m = 0)
    (hm : getField m lo n = BitVec.allOnes n) : (setField v lo f).setWidth 64 &&& ~~~m = 0 := by
  refine setField_outside hv fun i hi hbit => ?_
  have h : (getField m lo n).getLsbD i = (BitVec.allOnes n).getLsbD i := by rw [hm]
  rw [getLsbD_getField, hbit, Bool.and_false, BitVec.getLsbD_allOnes, decide_eq_true hi] at h
  cases h

/-- Writing a watchpoint enable into the bit that a register has with watchpoints only. -/
theorem setField_watched {c : Config} {v : Word32} {m : Word} {lo : Nat} {we : BitVec 1}
    (hv : v.setWidth 64 &&& ~~~m = 0) (hm : m.getLsbD lo = c.watch) (hwe : watched c we = we) :
    (setField v lo we).setWidth 64 &&& ~~~m = 0 := by
  refine setField_outside hv fun i hi hbit => ?_
  have hi0 : i = 0 := by omega
  subst hi0
  have hoff : c.watch = false := by rw [← hm]; exact hbit
  rw [← hwe, watched, hoff, if_neg Bool.false_ne_true]
  exact BitVec.getLsbD_zero

section registers
variable {c : Config} {v : Word32}

theorem crmdWithMode_reserved (h : v.setWidth 64 &&& ~~~Csr.fieldMask c .crmd = 0) (plv : BitVec 2) (ie : BitVec 1)
    {we : BitVec 1} (hwe : watched c we = we) :
    (crmdWithMode v plv ie we).setWidth 64 &&& ~~~Csr.fieldMask c .crmd = 0 := by
  refine setField_watched (setField_inside ie (setField_inside plv h ?plv) ?ie) ?we hwe <;>
    (simp only [Csr.fieldMask, watchMask]; cases c.watch <;> decide)

theorem crmdWithTranslation_reserved (h : v.setWidth 64 &&& ~~~Csr.fieldMask c .crmd = 0) (da pg : BitVec 1) :
    (crmdWithTranslation v da pg).setWidth 64 &&& ~~~Csr.fieldMask c .crmd = 0 := by
  refine setField_inside pg (setField_inside da h ?da) ?pg <;>
    (simp only [Csr.fieldMask, watchMask]; cases c.watch <;> decide)

theorem prmdSaving_reserved (h : v.setWidth 64 &&& ~~~Csr.fieldMask c .prmd = 0) (plv : BitVec 2) (ie : BitVec 1)
    {we : BitVec 1} (hwe : watched c we = we) :
    (prmdSaving v plv ie we).setWidth 64 &&& ~~~Csr.fieldMask c .prmd = 0 := by
  refine setField_watched (setField_inside ie (setField_inside plv h ?plv) ?ie) ?we hwe <;>
    (simp only [Csr.fieldMask, watchMask]; cases c.watch <;> decide)

theorem estatWithCodes_reserved (h : v.setWidth 64 &&& ~~~Csr.fieldMask c .estat = 0) (ec : BitVec 6)
    (es : BitVec 9) : (estatWithCodes v ec es).setWidth 64 &&& ~~~Csr.fieldMask c .estat = 0 :=
  setField_inside es (setField_inside ec h (by simp only [Csr.fieldMask]; decide))
    (by simp only [Csr.fieldMask]; decide)

/-- All 32 bits of BADI are fields. -/
theorem badi_reserved (c : Config) (w : Word32) : w.setWidth 64 &&& ~~~Csr.fieldMask c .badi = 0 := by
  rw [outside_eq_zero_iff]
  intro b hb
  have hhigh : 32 ≤ b :=
    Nat.not_lt.mp (of_decide_eq_false ((getLsbD_widthMask c .badi b).symm.trans hb))
  rw [BitVec.getLsbD_setWidth, BitVec.getLsbD_of_ge w b hhigh, Bool.and_false]

end registers

/-! ### The entry address -/

theorem entryCode_lt (e : Exception) (ec : BitVec 6) (s : State) : entryCode e ec s < 128 := by
  have hec : ec.toNat < 64 := ec.isLt
  have hwin := winner_lt s
  cases e with
  | int => simp only [entryCode]; omega
  | _ => simp only [entryCode]; omega

/-- The entry address has GRLEN bits: the offset of a code stays far below 2^32. -/
theorem entry_fits (s : State) {code : Nat} (hcode : code < 128) : s.entry code &&& ~~~grMask s.cfg = 0 := by
  have hbase := csrValue_fits s .eentry rfl
  unfold State.entry
  split
  · exact hbase
  · refine fits_or hbase ?_
    have hspace : 2 ^ (s.vs.toNat + 2) ≤ 2 ^ 9 :=
      Nat.pow_le_pow_right (by decide) (by have := s.vs.isLt; omega)
    have hoffset : 2 ^ (s.vs.toNat + 2) * code < 2 ^ 32 :=
      calc 2 ^ (s.vs.toNat + 2) * code ≤ 2 ^ 9 * 128 := Nat.mul_le_mul hspace (Nat.le_of_lt hcode)
        _ < 2 ^ 32 := by decide
    rw [fits_iff, BitVec.toNat_ofNat]
    exact Nat.lt_of_le_of_lt (Nat.mod_le _ _)
      (Nat.lt_of_lt_of_le hoffset (Nat.pow_le_pow_right (by decide) (grlen_ge s.cfg)))

/-! ### Every core has PLV0 -/

theorem plvLegal_zero (c : Config) : plvLegal c 0 = true := by
  unfold plvLegal; cases c.plvSet <;> rfl

/-! ### The operations keep the invariant -/

theorem inv_sample {s : State} (h : Inv s) : Inv s.sample := by
  rw [sample_eq]
  exact ⟨h.memory, h.zeroRegister, h.gprWidth, h.pcWidth, h.reservedBits, h.legalPlv, h.noMachineError, h.miscZero⟩

theorem inv_drawn {s : State} (h : Inv s) : Inv (drawn s) :=
  ⟨h.memory, h.zeroRegister, h.gprWidth, h.pcWidth, h.reservedBits, h.legalPlv, h.noMachineError, h.miscZero⟩

/-- Reserved bits stay 0 if they do in the registers that are written. -/
theorem reservedBits_of_keeps {s t : State} {regs : List Reg} {csrs : List Csr} (h : Inv s) (hk : Keeps s t regs csrs)
    (hw : ∀ r ∈ csrs, t.csr.get r &&& ~~~r.fieldMask s.cfg = 0) (r : Csr) :
    t.csr.get r &&& ~~~r.fieldMask t.cfg = 0 := by
  rw [hk.cfg]
  by_cases hr : r ∈ csrs
  · exact hw r hr
  · rw [hk.csr r hr]
    exact h.reservedBits r

/-- The entry of an ordinary exception, with an address of GRLEN bits for BADV. -/
theorem inv_takeOrdinary {s : State} (h : Inv s) (e : Exception) (ec : BitVec 6) (es : BitVec 9) {info : TrapInfo}
    (hbadva : info.badva &&& ~~~grMask s.cfg = 0) : Inv (takeOrdinary e ec es info s) where
  memory := h.memory
  zeroRegister := h.zeroRegister
  gprWidth := h.gprWidth
  pcWidth := entry_fits s (entryCode_lt e ec s)
  reservedBits := by
    refine reservedBits_of_keeps h (takeOrdinary_keeps e ec es info s) ?_
    have hbadv : (if e.writesBadv then info.badva else s.csr.badv) &&& ~~~grMask s.cfg = 0 := by
      split
      · exact hbadva
      · exact h.reservedBits .badv
    simp only [ordinaryEntryCsrs, List.forall_mem_cons]
    exact ⟨prmdSaving_reserved (h.reservedBits .prmd) s.plv s.ie (watched_we s),
      crmdWithMode_reserved (h.reservedBits .crmd) 0 0 (watched_zero s.cfg),
      estatWithCodes_reserved (h.reservedBits .estat) ec es, h.pcWidth, hbadv, badi_reserved s.cfg _,
      List.forall_mem_nil _⟩
  legalPlv := by
    rw [(ordinaryEntry_takeOrdinary e ec es info s).plv]
    exact plvLegal_zero s.cfg
  noMachineError := h.noMachineError
  miscZero := h.miscZero

theorem inv_raise {s : State} (h : Inv s) {e : Exception} (he : e ∈ raisedExceptions) {info : TrapInfo}
    (hbadva : info.badva &&& ~~~grMask s.cfg = 0) : Inv (raise e info s) := by
  obtain ⟨ec, -, hc⟩ := codes_of_raised he
  rw [raise_ordinary hc]
  exact inv_takeOrdinary h e ec 0 hbadva

/-- Outside a machine error the return is from one of two scenes. -/
theorem scene_of_noMachineError {s : State} (h : s.isMerr = 0) : s.scene = .tlbRefill ∨ s.scene = .ordinary := by
  unfold State.scene
  rw [h, if_neg (by decide)]
  split
  · exact .inl rfl
  · exact .inr rfl

/-- Outside a machine error the return leaves MERRCTL as it was. -/
theorem returnFrom_merrctl_of_noMachineError {s : State} (h : s.isMerr = 0) :
    (returnFrom s).csr.merrctl = s.csr.merrctl := by
  rw [returnFrom_merrctl]
  rcases scene_of_noMachineError h with hscene | hscene <;> rw [hscene, if_neg nofun]

/-- The return restores the level its scene saved. -/
theorem returnFrom_plv (s : State) : (returnFrom s).plv = s.savedPlv := by
  rw [State.savedPlv]
  cases hscene : s.scene with
  | machineError => exact (returnFrom_machineError hscene).1
  | tlbRefill => exact (returnFrom_tlbRefill hscene).1
  | ordinary => exact (returnFrom_ordinary hscene).1

/-- What a return writes keeps to the fields of CRMD, MERRCTL and TLBRERA. -/
theorem returnFrom_reserved {s : State} (h : Inv s) : ∀ r ∈ ([.crmd, .merrctl, .tlbrera] : List Csr),
    (returnFrom s).csr.get r &&& ~~~r.fieldMask s.cfg = 0 := by
  simp only [List.forall_mem_cons]
  refine ⟨?crmd, ?merrctl, ?tlbrera, List.forall_mem_nil _⟩
  case crmd =>
    change (restoredCrmd s).setWidth 64 &&& ~~~Csr.fieldMask s.cfg .crmd = 0
    rcases scene_of_noMachineError h.noMachineError with hscene | hscene <;> simp only [restoredCrmd, hscene]
    · exact crmdWithTranslation_reserved
        (crmdWithMode_reserved (h.reservedBits .crmd) _ _ (watched_watched s.cfg _)) 0 1
    · exact crmdWithMode_reserved (h.reservedBits .crmd) _ _ (watched_watched s.cfg _)
  case merrctl =>
    rw [Csrs.get, returnFrom_merrctl_of_noMachineError h.noMachineError]
    exact h.reservedBits .merrctl
  case tlbrera =>
    rw [Csrs.get, returnFrom_tlbrera]
    split
    · exact setField_outside_mask _ _ 0 0#1 (h.reservedBits .tlbrera) fun _ _ _ _ _ => BitVec.getLsbD_zero
    · exact h.reservedBits .tlbrera

/-- The return to a level the core has. -/
theorem inv_returnFrom {s : State} (h : Inv s) (hl : plvLegal s.cfg s.savedPlv = true) : Inv (returnFrom s) where
  memory := h.memory
  zeroRegister := h.zeroRegister
  gprWidth := h.gprWidth
  pcWidth := by
    rcases scene_of_noMachineError h.noMachineError with hscene | hscene
    · obtain ⟨-, -, -, hpc⟩ := returnFrom_tlbRefill hscene
      rw [hpc]
      exact fits_and (narrow_fits s.cfg _) _
    · obtain ⟨-, -, -, hpc⟩ := returnFrom_ordinary hscene
      rw [hpc]
      exact narrow_fits s.cfg _
  reservedBits := reservedBits_of_keeps h (returnFrom_keeps s) (returnFrom_reserved h)
  legalPlv := by rwa [returnFrom_plv]
  noMachineError := by
    rw [State.isMerr, returnFrom_merrctl_of_noMachineError h.noMachineError]
    exact h.noMachineError
  miscZero := h.miscZero

/-! ### CSR accesses keep the invariant -/

/-- Entry 0 of the register file is never written (R11). -/
theorem setX_gpr_zero (s : State) (rd : Reg) (v : Word) : (s.setX rd v).gpr[0] = s.gpr[0] := by
  unfold State.setX
  split
  · rfl
  · next hrd =>
    have hne : rd.toNat ≠ 0 := fun h => hrd (BitVec.eq_of_toNat_eq h)
    exact Vector.getElem_set_ne rd.toFin.isLt (by decide) hne

/-- A written register holds GRLEN bits, the others what they held. -/
theorem setX_gpr_fits {s : State} (h : ∀ i : Fin 32, s.gpr[i] &&& ~~~grMask s.cfg = 0) (rd : Reg) (v : Word)
    (i : Fin 32) : (s.setX rd v).gpr[i] &&& ~~~grMask s.cfg = 0 := by
  unfold State.setX
  split
  · exact h i
  · by_cases hi : rd.toFin = i
    · subst hi
      simp [narrow_fits]
    · have hne : rd.toNat ≠ i.val := fun e => hi (Fin.ext e)
      simpa [hne] using h i

/-- x[rd] gets GRLEN bits and x[0] nothing. -/
theorem inv_finish {s : State} (h : Inv s) (rd : Reg) (v : Word) (hpc : s.pc.toNat + 4 < 2 ^ s.cfg.grlen) :
    Inv (finish s rd v) where
  memory := by rw [finish_mem]; exact h.memory
  zeroRegister := (setX_gpr_zero s rd v).trans h.zeroRegister
  gprWidth i := by rw [finish_cfg]; exact setX_gpr_fits h.gprWidth rd v i
  pcWidth := by rw [finish_cfg]; exact fits_pc_add hpc
  reservedBits r := by rw [finish_csr, finish_cfg]; exact h.reservedBits r
  legalPlv := by rw [State.plv, finish_csr, finish_cfg]; exact h.legalPlv
  noMachineError := by rw [State.isMerr, finish_csr]; exact h.noMachineError
  miscZero := by rw [finish_csr]; exact h.miscZero

/-- `csr_write` stores only fields (R16). -/
theorem written_reserved {s : State} {r : Csr} (h : s.csr.get r &&& ~~~r.fieldMask s.cfg = 0) (v m : Word) :
    written s r v m &&& ~~~r.fieldMask s.cfg = 0 := by
  rw [outside_eq_zero_iff] at h ⊢
  intro b hm
  have hw : softwareWritable s.cfg r b = false :=
    Bool.eq_false_iff.mpr fun hw => absurd ((getLsbD_fieldMask_of_writable hw).symm.trans hm) (by decide)
  rw [getLsbD_written, hw, Bool.false_and, if_neg Bool.false_ne_true]
  exact h b hm

/-- IsMERR is none of software's bits. -/
theorem HardwareBitsKept.isMerr {s t : State} (h : HardwareBitsKept s t .merrctl) : t.isMerr = s.isMerr := by
  apply BitVec.eq_of_getLsbD_eq
  intro b hb
  have hb0 : b = 0 := by omega
  subst hb0
  have hbit := h 0 (by simp [softwareWritable])
  simpa [Csrs.get, State.isMerr, getField] using hbit

theorem misc_eq_zero_iff (k : Csrs) : k.misc = 0 ↔ k.get .misc = 0 := by
  constructor
  · intro h
    rw [Csrs.get, h]
    rfl
  · intro h
    have hlow : (k.misc.setWidth 64).setWidth 32 = k.misc := by simp
    rw [← hlow]
    exact congrArg (BitVec.setWidth 32) h

/-- A CSR write stores only fields, a PLV the core has, and 0 in MISC. -/
theorem inv_csrWrite {s t : State} {n : CsrNum} {v m : Word} (h : Inv s) (hw : csrWrite n v m s = .ok t) : Inv t := by
  have hmerr : t.isMerr = s.isMerr := (csrWrite_keeps hw .merrctl).isMerr
  rcases csrWrite_ok hw with ⟨-, rfl⟩ | ⟨r, -, -, hstore⟩
  · exact h
  obtain ⟨rfl, hplv, hmisc⟩ := csrStore_ok hstore
  refine ⟨h.memory, h.zeroRegister, h.gprWidth, h.pcWidth, fun r' => ?reserved, ?plv, hmerr.trans h.noMachineError,
    ?misc⟩
  case reserved =>
    change (s.csr.put r (written s r v m)).get r' &&& ~~~r'.fieldMask s.cfg = 0
    by_cases hr : r' = r
    · rw [hr, get_put_written]
      exact written_reserved (h.reservedBits r) v m
    · rw [csrs_get_put_ne s.csr _ hr]
      exact h.reservedBits r'
  case plv =>
    rw [plv_eq_getField_get]
    change plvLegal s.cfg (getField ((s.csr.put r (written s r v m)).get .crmd) 0 2) = true
    by_cases hr : Csr.crmd = r
    · subst hr
      rw [get_put_written]
      exact hplv rfl
    · rw [csrs_get_put_ne s.csr _ hr, ← plv_eq_getField_get]
      exact h.legalPlv
  case misc =>
    rw [misc_eq_zero_iff]
    change (s.csr.put r (written s r v m)).get .misc = 0
    by_cases hr : Csr.misc = r
    · subst hr
      rw [get_put_written]
      exact hmisc rfl
    · rw [csrs_get_put_ne s.csr _ hr]
      exact (misc_eq_zero_iff s.csr).mp h.miscZero

theorem inv_completes {i : Instr} {s t : State} (h : Inv s) (hc : Completes i s t) : Inv t := by
  rcases hc with ⟨rd, n, hb⟩ | ⟨rd, n, v, m, -, hb⟩ | ⟨-, rfl, hl⟩
  · obtain ⟨s1, v, rfl, rfl | rfl, hpc⟩ := csrToGr_finish hb
    · exact inv_finish h rd v hpc
    · exact inv_finish (inv_drawn h) rd v hpc
  · obtain ⟨s1, s2, old, rfl, hs1, hwrite, hpc, hpc2, hcfg, -⟩ := csrExchange_finish hb
    have hinv1 : Inv s1 := by
      rcases hs1 with rfl | rfl
      · exact h
      · exact inv_drawn h
    exact inv_finish (inv_csrWrite hinv1 hwrite) rd old (by rwa [hpc2, hcfg])
  · exact inv_returnFrom h hl

/-- Settles O50. -/
theorem stepKeepsInvariant : Obligations.StepKeepsInvariant := by
  unfold Obligations.StepKeepsInvariant
  intro s t h hstep
  have hs := inv_sample h
  rcases step_raises_or_completes hstep with ⟨e, he, info, hbadva, rfl⟩ | ⟨-, w, i, -, -, hc⟩
  · refine inv_raise hs he ?_
    rw [sample_cfg]
    rcases hbadva with h0 | hpc
    · rw [h0, fits_zero]
    · rw [hpc, h.pcWidth]
  · exact inv_completes hs hc

/-! ### Reset -/

/-- From blank power-on contents reset leaves one bit set among the CSRs: CRMD.DA (R71). -/
theorem get_resetOf_zero (r : Csr) : Csrs.zero.resetOf.get r = if r = .crmd then 0x008 else 0 := by
  cases r with
  | save n => simp [Csrs.get, Csrs.resetOf, Csrs.zero]
  | _ => rfl

/-- The mode that CRMD has after reset: PLV0, no interrupts, direct translation (R71). -/
theorem mode_of_reset (s : State) (h : s.csr.crmd = 0x008) :
    s.plv = 0 ∧ s.ie = 0 ∧ s.da = 1 ∧ s.pg = 0 ∧ s.datf = 0 ∧ s.datm = 0 ∧ s.we = 0 := by
  have hwe : getField (0x008 : Word32) 9 1 = 0 := by decide
  simp only [State.plv, State.ie, State.da, State.pg, State.datf, State.datm, State.we, h, hwe, watched_zero]
  decide

theorem inv_resetOf_blank {c : Config} (hc : c.wf = true) : Inv (State.resetOf c State.blank) where
  memory := rfl
  zeroRegister := rfl
  gprWidth i := by
    have hblank : ∀ i : Fin 32, (State.blank.gpr.set 0 0)[i] = 0 := by decide
    change (State.blank.gpr.set 0 0)[i] &&& ~~~grMask c = 0
    rw [hblank i, fits_zero]
  pcWidth := by
    have hpc : c.resetPc.toNat < 2 ^ c.grlen := by simpa [Config.wf] using (Bool.and_eq_true_iff.mp hc).2
    exact fits_iff.mpr hpc
  reservedBits r := by
    change Csrs.zero.resetOf.get r &&& ~~~r.fieldMask c = 0
    rw [get_resetOf_zero]
    split
    · next hr =>
      subst hr
      simp only [Csr.fieldMask, watchMask]
      cases c.watch <;> decide
    · exact BitVec.zero_and
  legalPlv := by
    obtain ⟨hplv, -⟩ := mode_of_reset (State.resetOf c State.blank) rfl
    rw [hplv]
    exact plvLegal_zero c
  noMachineError := rfl
  miscZero := rfl

/-- Settles O49. -/
theorem resetHasInvariant : Obligations.ResetHasInvariant := by
  unfold Obligations.ResetHasInvariant
  exact ⟨inv_resetOf_blank (by decide), fun c hc => inv_resetOf_blank hc⟩

/-! The bits that reset clears in a register, and the others. -/

section masks
variable {w : Nat} (v : BitVec w)

/-- A field inside the cleared bits is 0. -/
theorem getField_clear_inside {m : BitVec w} {lo n : Nat} (hm : getField (~~~m) lo n = 0) :
    getField (v &&& ~~~m) lo n = 0 := by
  rw [getField, BitVec.extractLsb'_and, ← getField, ← getField, hm]
  exact BitVec.and_zero

/-- A field outside the cleared bits is kept. -/
theorem getField_clear_outside {m : BitVec w} {lo n : Nat} (hm : getField (~~~m) lo n = BitVec.allOnes n) :
    getField (v &&& ~~~m) lo n = getField v lo n := by
  rw [getField, BitVec.extractLsb'_and, ← getField, ← getField, hm, BitVec.and_allOnes]

end masks

/-- Reset stores into the thirteen registers only. -/
theorem get_resetOf (k : Csrs) {r : Csr} (hr : r ∉ resetCsrs) : k.resetOf.get r = k.get r := by
  cases r <;> first | rfl | exact absurd (by decide) hr

/-- Settles O48. -/
theorem resetState : Obligations.ResetState := by
  unfold Obligations.ResetState
  intro c u
  obtain ⟨hplv, hie, hda, hpg, hdatf, hdatm, hwe⟩ := mode_of_reset (State.resetOf c u) rfl
  have hgpr (i : Fin 32) (hi : i ≠ 0) : (State.resetOf c u).gpr[i] = u.gpr[i] :=
    Vector.getElem_set_ne (by decide) i.isLt fun h => hi (Fin.ext h.symm)
  have hvs : (State.resetOf c u).vs = 0 := by
    change getField (0 : Word32) 16 3 = 0
    decide
  have hlie : (State.resetOf c u).lie = 0 := by
    change getField (0 : Word32) 0 13 = 0
    decide
  exact ⟨rfl, rfl, hplv, hie, hda, hpg, hdatf, hdatm, hwe, rfl, rfl, rfl, rfl, hlie, hvs,
    getField_clear_inside _ (by decide), getField_clear_inside _ (by decide), getField_clear_inside _ (by decide),
    getField_clear_inside _ (by decide), getField_clear_inside _ (by decide), getField_clear_inside _ (by decide),
    getField_clear_inside _ (by decide), getField_clear_inside _ (by decide), getField_clear_inside _ (by decide),
    rfl, hgpr, fun r hr => get_resetOf u.csr hr,
    getField_clear_outside _ (by decide), getField_clear_outside _ (by decide), getField_clear_outside _ (by decide),
    getField_clear_outside _ (by decide), getField_clear_outside _ (by decide), getField_clear_outside _ (by decide),
    getField_clear_outside _ (by decide), getField_clear_outside _ (by decide), getField_clear_outside _ (by decide),
    getField_clear_outside _ (by decide), rfl, rfl, rfl, rfl, rfl⟩

end Sys2Proof.Proofs
end
